-- ==== Sys2Proof/Word.lean ====
section
/-! DEFINITION. The word types of the core: every value is unsigned (R6, R11, R13 of spec/). -/

namespace Sys2Proof

/-- A memory cell, a general register, a timer: 8 bits. -/
abbrev Byte := BitVec 8

/-- An instruction word, `I`, `pc`, a stack cell: 16 bits. -/
abbrev Word := BitVec 16

/-- A 4-bit slice of an instruction word (R6, glossary "Nibble"). -/
abbrev Nibble := BitVec 4

/-- A 12-bit address immediate `nnn` (R7). -/
abbrev Addr := BitVec 12

end Sys2Proof
end

