-- ==== Sys2Proof/Config.lean ====
section
/-! DEFINITION. What is fixed for this hardware: the parameters of R4, the kinds of the named constants of R5 (their fixed values
stand in Machine/Policy.lean), and the one free value of the spec, the random byte of R113. -/

namespace Sys2Proof.Config

/-- `MEM_SIZE` (R4): bytes of memory. -/
@[simp] def memSize : Nat := 4096

/-- `PROG_BASE` (R4): load address of an image and reset value of `pc`. -/
@[simp] def progBase : Nat := 0x200

/-- `FONT_BASE` (R4): address of glyph 0. -/
@[simp] def fontBase : Nat := 0

/-- `FONT_BYTES` (R4): 16 glyphs of 5 bytes. -/
@[simp] def fontBytes : Nat := 80

/-- `GLYPH_STRIDE` (R4): glyph `d` is at `fontBase + 5*d`. -/
@[simp] def glyphStride : Nat := 5

/-- `ROM_MAX` (R4): `MEM_SIZE - PROG_BASE`, the longest image that loads. -/
@[simp] def romMax : Nat := 3584

/-- `STACK_DEPTH` (R4): entries of the call stack. -/
@[simp] def stackDepth : Nat := 16

/-- `SHIFT_SRC` (R5): which register a shift reads. -/
inductive ShiftSrc
  /-- Shift `V[x]` in place and ignore `y`. -/
  | vx
  /-- Shift `V[y]` into `V[x]`. -/
  | vy
  deriving DecidableEq, Repr

/-- `FLAG_WRITE_ORDER` (R5): whether the flag or the result is written last. -/
inductive FlagWriteOrder
  | flagLast
  | flagFirst
  deriving DecidableEq, Repr

/-- `BLOCK_I_INCREMENT` (R5): what a block store or load does to `I`. -/
inductive BlockIncrement
  | unchanged
  | xPlusOne
  deriving DecidableEq, Repr

/-- `KEYWAIT_MODE` (R5): what ends a key wait. -/
inductive KeyWaitMode
  | edge
  | level
  deriving DecidableEq, Repr

/-- The random byte of the `k`-th execution of `RND` (R113: "A model must treat each draw as a free value in 0..255 under no
law"). No body: nothing can be proved of its values. DESIGN CHOICE of form, safe: notes/assumptions/1.md. -/
opaque draw8 : Nat → Byte

end Sys2Proof.Config
end

