-- ==== Sys2Proof/Syntax.lean ====
section
/-! DEFINITION. The syntax: one constructor of `Instr` per row of spec/opcode_table.json (R64 of 30_encoding.md), operands as R7 and
R61 give them. Operand types are exactly as wide as their fields, since "no field value is illegal" (R66). -/

namespace Sys2Proof

/-- A register index, a 4-bit field `x` or `y`: all 16 values select a register (R11, R62). -/
abbrev Reg := Fin 16

/-- The 34 instructions, in the order of R64. -/
inductive Instr
  /-- `00E0` `CLS` -/
  | cls
  /-- `00EE` `RET` -/
  | ret
  /-- `1NNN` `JP nnn` -/
  | jp (nnn : Addr)
  /-- `2NNN` `CALL nnn` -/
  | call (nnn : Addr)
  /-- `3XNN` `SE Vx, nn` -/
  | seImm (x : Reg) (nn : Byte)
  /-- `4XNN` `SNE Vx, nn` -/
  | sneImm (x : Reg) (nn : Byte)
  /-- `5XY0` `SE Vx, Vy` -/
  | seReg (x y : Reg)
  /-- `6XNN` `LD Vx, nn` -/
  | ldImm (x : Reg) (nn : Byte)
  /-- `7XNN` `ADD Vx, nn` -/
  | addImm (x : Reg) (nn : Byte)
  /-- `8XY0` `LD Vx, Vy` -/
  | ldReg (x y : Reg)
  /-- `8XY1` `OR Vx, Vy` -/
  | orReg (x y : Reg)
  /-- `8XY2` `AND Vx, Vy` -/
  | andReg (x y : Reg)
  /-- `8XY3` `XOR Vx, Vy` -/
  | xorReg (x y : Reg)
  /-- `8XY4` `ADD Vx, Vy` -/
  | addReg (x y : Reg)
  /-- `8XY5` `SUB Vx, Vy` -/
  | sub (x y : Reg)
  /-- `8XY6` `SHR Vx {, Vy}` -/
  | shr (x y : Reg)
  /-- `8XY7` `SUBN Vx, Vy` -/
  | subn (x y : Reg)
  /-- `8XYE` `SHL Vx {, Vy}` -/
  | shl (x y : Reg)
  /-- `9XY0` `SNE Vx, Vy` -/
  | sneReg (x y : Reg)
  /-- `ANNN` `LD I, nnn` -/
  | ldI (nnn : Addr)
  /-- `BNNN` `JP V0, nnn` -/
  | jpV0 (nnn : Addr)
  /-- `CXNN` `RND Vx, nn` -/
  | rnd (x : Reg) (nn : Byte)
  /-- `DXYN` `DRW Vx, Vy, n` -/
  | drw (x y : Reg) (n : Nibble)
  /-- `EX9E` `SKP Vx` -/
  | skp (x : Reg)
  /-- `EXA1` `SKNP Vx` -/
  | sknp (x : Reg)
  /-- `FX07` `LD Vx, DT` -/
  | ldVxDt (x : Reg)
  /-- `FX0A` `LD Vx, K` -/
  | ldVxK (x : Reg)
  /-- `FX15` `LD DT, Vx` -/
  | ldDtVx (x : Reg)
  /-- `FX18` `LD ST, Vx` -/
  | ldStVx (x : Reg)
  /-- `FX1E` `ADD I, Vx` -/
  | addIVx (x : Reg)
  /-- `FX29` `LD F, Vx` -/
  | ldFVx (x : Reg)
  /-- `FX33` `LD B, Vx` -/
  | ldBVx (x : Reg)
  /-- `FX55` `LD [I], Vx` -/
  | ldMemVx (x : Reg)
  /-- `FX65` `LD Vx, [I]` -/
  | ldVxMem (x : Reg)
  deriving DecidableEq, Repr

/-- The number of an instruction's row in the map of R64. -/
def Instr.rowNumber : Instr → Nat
  | .cls => 1 | .ret => 2 | .jp _ => 3 | .call _ => 4 | .seImm _ _ => 5 | .sneImm _ _ => 6
  | .seReg _ _ => 7 | .ldImm _ _ => 8 | .addImm _ _ => 9 | .ldReg _ _ => 10 | .orReg _ _ => 11 | .andReg _ _ => 12
  | .xorReg _ _ => 13 | .addReg _ _ => 14 | .sub _ _ => 15 | .shr _ _ => 16 | .subn _ _ => 17 | .shl _ _ => 18
  | .sneReg _ _ => 19 | .ldI _ => 20 | .jpV0 _ => 21 | .rnd _ _ => 22 | .drw _ _ _ => 23 | .skp _ => 24
  | .sknp _ => 25 | .ldVxDt _ => 26 | .ldVxK _ => 27 | .ldDtVx _ => 28 | .ldStVx _ => 29 | .addIVx _ => 30
  | .ldFVx _ => 31 | .ldBVx _ => 32 | .ldMemVx _ => 33 | .ldVxMem _ => 34

/-- One row of the opcode map of R64: a word `op` is in the row when `op and mask = value`. -/
structure OpcodeRow where
  number   : Nat
  mnemonic : String
  mask     : Word
  value    : Word
  deriving DecidableEq, Repr

/-- The row's test of R64, `op and mask = match`. -/
def OpcodeRow.selects (r : OpcodeRow) (op : Word) : Bool := op &&& r.mask == r.value

end Sys2Proof
end

