-- ==== Sys2Proof/WellFormed.lean ====
section
/-! DEFINITION. The checks on terms the machine is given: operand numbers within their fields (R7, R61), rows of an opcode map (R64),
a program image that fits (R55). Since `Instr`'s operand types are exactly as wide as their fields, every `Instr` passes its check
(R66: "Within a recognized instruction no field value is illegal"); the operand check itself works on raw numbers. -/

namespace Sys2Proof

/-- The fields an operand can stand in (R7): register index, byte, address, count. -/
inductive Field
  | reg
  | nn
  | nnn
  | n
  deriving DecidableEq, Repr

/-- How many values a field holds: two to the power of its width (R61). -/
def Field.bound : Field → Nat
  | .reg => 16
  | .nn => 256
  | .nnn => 4096
  | .n => 16

/-- Raw operand numbers fit their fields. -/
def operandsFit (ops : List (Field × Nat)) : Bool := ops.all fun p => decide (p.2 < p.1.bound)

/-- An instruction's operands as raw numbers, left to right. -/
def Instr.operands : Instr → List (Field × Nat)
  | .cls | .ret => []
  | .jp a | .call a | .ldI a | .jpV0 a => [(.nnn, a.toNat)]
  | .seImm x b | .sneImm x b | .ldImm x b | .addImm x b | .rnd x b => [(.reg, x.val), (.nn, b.toNat)]
  | .seReg x y | .ldReg x y | .orReg x y | .andReg x y | .xorReg x y | .addReg x y | .sub x y | .shr x y | .subn x y
  | .shl x y | .sneReg x y => [(.reg, x.val), (.reg, y.val)]
  | .drw x y n => [(.reg, x.val), (.reg, y.val), (.n, n.toNat)]
  | .skp x | .sknp x | .ldVxDt x | .ldVxK x | .ldDtVx x | .ldStVx x | .addIVx x | .ldFVx x | .ldBVx x | .ldMemVx x
  | .ldVxMem x => [(.reg, x.val)]

/-- An instruction is well formed when its operands fit their fields. -/
def Instr.wellFormed (i : Instr) : Bool := operandsFit i.operands

/-- A row of an opcode map is well formed when its `match` sets no bit its `mask` leaves open: otherwise no word could select it. -/
def OpcodeRow.wellFormed (r : OpcodeRow) : Bool := r.value &&& r.mask == r.value

/-- A program image fits above `PROG_BASE` (R54, R55: `len <= 3584`). -/
def imageFits (bytes : List Byte) : Bool := decide (bytes.length ≤ Config.romMax)

end Sys2Proof
end

