-- ==== Sys2Proof/Decode.lean ====
section
/-! DEFINITION. The opcode map of R64, the decoder (total on any word and any bytes, rejecting by name) and the encoder. The bit
patterns are the spec's own, marked there as general knowledge: UNVERIFIED, unsafe, notes/assumptions/6.md. -/

namespace Sys2Proof

/-- Why bytes are no instruction. -/
inductive DecodeError
  /-- Fewer than the two bytes every instruction has (R60). -/
  | truncated
  /-- The word matches no row of the opcode map (R65). -/
  | unrecognizedOpcode (op : Word)
  deriving DecidableEq, Repr

/-! ### The opcode map as R64 tabulates it -/

/-- Rows 1 to 17 of R64. -/
def opcodeMapLow : List OpcodeRow :=
  [⟨1, "CLS", 0xFFFF, 0x00E0⟩, ⟨2, "RET", 0xFFFF, 0x00EE⟩, ⟨3, "JP_nnn", 0xF000, 0x1000⟩,
   ⟨4, "CALL_nnn", 0xF000, 0x2000⟩, ⟨5, "SE_Vx__nn", 0xF000, 0x3000⟩, ⟨6, "SNE_Vx__nn", 0xF000, 0x4000⟩,
   ⟨7, "SE_Vx__Vy", 0xF00F, 0x5000⟩, ⟨8, "LD_Vx__nn", 0xF000, 0x6000⟩, ⟨9, "ADD_Vx__nn", 0xF000, 0x7000⟩,
   ⟨10, "LD_Vx__Vy", 0xF00F, 0x8000⟩, ⟨11, "OR_Vx__Vy", 0xF00F, 0x8001⟩, ⟨12, "AND_Vx__Vy", 0xF00F, 0x8002⟩,
   ⟨13, "XOR_Vx__Vy", 0xF00F, 0x8003⟩, ⟨14, "ADD_Vx__Vy", 0xF00F, 0x8004⟩, ⟨15, "SUB_Vx__Vy", 0xF00F, 0x8005⟩,
   ⟨16, "SHR_Vx____Vy", 0xF00F, 0x8006⟩, ⟨17, "SUBN_Vx__Vy", 0xF00F, 0x8007⟩]

/-- Rows 18 to 34 of R64. -/
def opcodeMapHigh : List OpcodeRow :=
  [⟨18, "SHL_Vx____Vy", 0xF00F, 0x800E⟩, ⟨19, "SNE_Vx__Vy", 0xF00F, 0x9000⟩, ⟨20, "LD_I__nnn", 0xF000, 0xA000⟩,
   ⟨21, "JP_V0__nnn", 0xF000, 0xB000⟩, ⟨22, "RND_Vx__nn", 0xF000, 0xC000⟩, ⟨23, "DRW_Vx__Vy__n", 0xF000, 0xD000⟩,
   ⟨24, "SKP_Vx", 0xF0FF, 0xE09E⟩, ⟨25, "SKNP_Vx", 0xF0FF, 0xE0A1⟩, ⟨26, "LD_Vx__DT", 0xF0FF, 0xF007⟩,
   ⟨27, "LD_Vx__K", 0xF0FF, 0xF00A⟩, ⟨28, "LD_DT__Vx", 0xF0FF, 0xF015⟩, ⟨29, "LD_ST__Vx", 0xF0FF, 0xF018⟩,
   ⟨30, "ADD_I__Vx", 0xF0FF, 0xF01E⟩, ⟨31, "LD_F__Vx", 0xF0FF, 0xF029⟩, ⟨32, "LD_B__Vx", 0xF0FF, 0xF033⟩,
   ⟨33, "LD__I___Vx", 0xF0FF, 0xF055⟩, ⟨34, "LD_Vx___I", 0xF0FF, 0xF065⟩]

/-- The opcode map of R64, in its order. -/
def opcodeMap : List OpcodeRow := opcodeMapLow ++ opcodeMapHigh

/-- "selects the instruction by the first row below whose mask and match satisfy op and mask = match" (R64). -/
def selectRow (op : Word) : Option OpcodeRow := opcodeMap.find? fun r => r.selects op

/-! ### Fields of a word (R7, R61) -/

/-- `c = op[15:12]`, the primary opcode class. -/
def fieldC (op : Word) : Nibble := op.extractLsb' 12 4

/-- `x = op[11:8]`. -/
def fieldX (op : Word) : Nibble := op.extractLsb' 8 4

/-- `y = op[7:4]`. -/
def fieldY (op : Word) : Nibble := op.extractLsb' 4 4

/-- `n = op[3:0]`. -/
def fieldN (op : Word) : Nibble := op.extractLsb' 0 4

/-- `nn = op[7:0]`. -/
def fieldNN (op : Word) : Byte := op.extractLsb' 0 8

/-- `nnn = op[11:0]`. -/
def fieldNNN (op : Word) : Addr := op.extractLsb' 0 12

/-- The register a 4-bit field selects: "selects V[x] or V[y] directly" (R62). -/
def regOf (f : Nibble) : Reg := f.toFin

/-- The 4-bit field of a register. -/
def regBits (r : Reg) : Nibble := .ofFin r

/-! ### The decoder: R64's map by class -/

/-- Class 0, selected by the whole word. -/
def decodeClass0 (op : Word) : Except DecodeError Instr :=
  match (fieldNNN op).toNat with
  | 0x0E0 => .ok .cls
  | 0x0EE => .ok .ret
  | _ => .error (.unrecognizedOpcode op)

/-- Class 8, selected by `n`. -/
def decodeClass8 (op : Word) : Except DecodeError Instr :=
  let x := regOf (fieldX op)
  let y := regOf (fieldY op)
  match (fieldN op).toNat with
  | 0x0 => .ok (.ldReg x y)
  | 0x1 => .ok (.orReg x y)
  | 0x2 => .ok (.andReg x y)
  | 0x3 => .ok (.xorReg x y)
  | 0x4 => .ok (.addReg x y)
  | 0x5 => .ok (.sub x y)
  | 0x6 => .ok (.shr x y)
  | 0x7 => .ok (.subn x y)
  | 0xE => .ok (.shl x y)
  | _ => .error (.unrecognizedOpcode op)

/-- Class E, selected by `nn`. -/
def decodeClassE (op : Word) : Except DecodeError Instr :=
  let x := regOf (fieldX op)
  match (fieldNN op).toNat with
  | 0x9E => .ok (.skp x)
  | 0xA1 => .ok (.sknp x)
  | _ => .error (.unrecognizedOpcode op)

/-- Class F, selected by `nn`. -/
def decodeClassF (op : Word) : Except DecodeError Instr :=
  let x := regOf (fieldX op)
  match (fieldNN op).toNat with
  | 0x07 => .ok (.ldVxDt x)
  | 0x0A => .ok (.ldVxK x)
  | 0x15 => .ok (.ldDtVx x)
  | 0x18 => .ok (.ldStVx x)
  | 0x1E => .ok (.addIVx x)
  | 0x29 => .ok (.ldFVx x)
  | 0x33 => .ok (.ldBVx x)
  | 0x55 => .ok (.ldMemVx x)
  | 0x65 => .ok (.ldVxMem x)
  | _ => .error (.unrecognizedOpcode op)

/-- The instruction a word selects, or the rejection of R65. Classes 5 and 9 require `n = 0` (`DECODE_STRICT`, R65). A nibble has
no value past 0xF: the last arm takes no word. -/
def decodeWord (op : Word) : Except DecodeError Instr :=
  let x := regOf (fieldX op)
  let y := regOf (fieldY op)
  match (fieldC op).toNat with
  | 0x0 => decodeClass0 op
  | 0x1 => .ok (.jp (fieldNNN op))
  | 0x2 => .ok (.call (fieldNNN op))
  | 0x3 => .ok (.seImm x (fieldNN op))
  | 0x4 => .ok (.sneImm x (fieldNN op))
  | 0x5 => if fieldN op = 0 then .ok (.seReg x y) else .error (.unrecognizedOpcode op)
  | 0x6 => .ok (.ldImm x (fieldNN op))
  | 0x7 => .ok (.addImm x (fieldNN op))
  | 0x8 => decodeClass8 op
  | 0x9 => if fieldN op = 0 then .ok (.sneReg x y) else .error (.unrecognizedOpcode op)
  | 0xA => .ok (.ldI (fieldNNN op))
  | 0xB => .ok (.jpV0 (fieldNNN op))
  | 0xC => .ok (.rnd x (fieldNN op))
  | 0xD => .ok (.drw x y (fieldN op))
  | 0xE => decodeClassE op
  | 0xF => decodeClassF op
  | _ => .error (.unrecognizedOpcode op)

/-- The word selects no instruction (R65). -/
def unrecognized (op : Word) : Bool :=
  match decodeWord op with
  | .ok _ => false
  | .error _ => true

/-- Two bytes as a big-endian word: "the byte at the lower address is op[15:8], the byte at the next address is op[7:0]" (R46). -/
def wordOfBytes (hi lo : Byte) : Word := hi ++ lo

/-- `op[15:8]`, the byte at the lower address (R46). -/
def highByte (op : Word) : Byte := op.extractLsb' 8 8

/-- `op[7:0]`, the byte at the next address (R46). -/
def lowByte (op : Word) : Byte := op.extractLsb' 0 8

/-- The instruction at the head of a byte sequence, with the bytes after it: every instruction is 2 bytes (R60). -/
def decodeBytes : List Byte → Except DecodeError (Instr × List Byte)
  | hi :: lo :: rest => (decodeWord (wordOfBytes hi lo)).map fun i => (i, rest)
  | _ => .error .truncated

/-! ### The encoder: "the row's match with the operand fields placed as rule R61 says" (R68) -/

/-- The word of an instruction. -/
def encode : Instr → Word
  | .cls => 0x00E0
  | .ret => 0x00EE
  | .jp nnn => 0x1#4 ++ nnn
  | .call nnn => 0x2#4 ++ nnn
  | .seImm x nn => 0x3#4 ++ regBits x ++ nn
  | .sneImm x nn => 0x4#4 ++ regBits x ++ nn
  | .seReg x y => 0x5#4 ++ regBits x ++ regBits y ++ 0x0#4
  | .ldImm x nn => 0x6#4 ++ regBits x ++ nn
  | .addImm x nn => 0x7#4 ++ regBits x ++ nn
  | .ldReg x y => 0x8#4 ++ regBits x ++ regBits y ++ 0x0#4
  | .orReg x y => 0x8#4 ++ regBits x ++ regBits y ++ 0x1#4
  | .andReg x y => 0x8#4 ++ regBits x ++ regBits y ++ 0x2#4
  | .xorReg x y => 0x8#4 ++ regBits x ++ regBits y ++ 0x3#4
  | .addReg x y => 0x8#4 ++ regBits x ++ regBits y ++ 0x4#4
  | .sub x y => 0x8#4 ++ regBits x ++ regBits y ++ 0x5#4
  | .shr x y => 0x8#4 ++ regBits x ++ regBits y ++ 0x6#4
  | .subn x y => 0x8#4 ++ regBits x ++ regBits y ++ 0x7#4
  | .shl x y => 0x8#4 ++ regBits x ++ regBits y ++ 0xE#4
  | .sneReg x y => 0x9#4 ++ regBits x ++ regBits y ++ 0x0#4
  | .ldI nnn => 0xA#4 ++ nnn
  | .jpV0 nnn => 0xB#4 ++ nnn
  | .rnd x nn => 0xC#4 ++ regBits x ++ nn
  | .drw x y n => 0xD#4 ++ regBits x ++ regBits y ++ n
  | .skp x => 0xE#4 ++ regBits x ++ 0x9E#8
  | .sknp x => 0xE#4 ++ regBits x ++ 0xA1#8
  | .ldVxDt x => 0xF#4 ++ regBits x ++ 0x07#8
  | .ldVxK x => 0xF#4 ++ regBits x ++ 0x0A#8
  | .ldDtVx x => 0xF#4 ++ regBits x ++ 0x15#8
  | .ldStVx x => 0xF#4 ++ regBits x ++ 0x18#8
  | .addIVx x => 0xF#4 ++ regBits x ++ 0x1E#8
  | .ldFVx x => 0xF#4 ++ regBits x ++ 0x29#8
  | .ldBVx x => 0xF#4 ++ regBits x ++ 0x33#8
  | .ldMemVx x => 0xF#4 ++ regBits x ++ 0x55#8
  | .ldVxMem x => 0xF#4 ++ regBits x ++ 0x65#8

/-- The bytes of an instruction as they stand in memory (R46). -/
def encodeBytes (i : Instr) : List Byte := [highByte (encode i), lowByte (encode i)]

/-! ### The host's numbering of an opcode-table word -/

/-- The 16-bit word the opcode table numbers `w`, bits above `nbits` zero (notes/assumptions/17.md). -/
def tableWord (nbits w : Nat) : Word := BitVec.ofNat 16 (w % 2 ^ nbits)

/-- What the decoder reads from the table's word `w` of `nbits` bits, laid out big-endian as the core stores it. -/
def decodeTableWord (nbits w : Nat) : Option Instr :=
  match decodeBytes [highByte (tableWord nbits w), lowByte (tableWord nbits w)] with
  | .ok (i, _) => some i
  | .error _ => none

end Sys2Proof
end

