-- ==== Sys2Proof/Machine/Policy.lean ====
section
/-! DEFINITION. The fixed values of the named constants of R5 for this hardware. Each is the spec's own decision
(92_eei_decisions.md); the shared operations take the constant as an argument and state the other value's effect where the rules
give it in a line. `ADDR_POLICY = wrap`, `OPC_0NNN = unrecognized` and `DECODE_STRICT = true` have no parameter: the model is
written for them (notes/assumptions/7.md). -/

namespace Sys2Proof.Machine.Policy

open Sys2Proof.Config

/-- `SHIFT_SRC = VX` (R5, D10). -/
def shiftSrc : ShiftSrc := .vx

/-- `FLAG_WRITE_ORDER = flag_last` (R5, D9). -/
def flagWriteOrder : FlagWriteOrder := .flagLast

/-- `LOGIC_WRITES_VF = false` (R5, D11). -/
def logicWritesVF : Bool := false

/-- `BLOCK_I_INCREMENT = none` (R5, D12). -/
def blockIncrement : BlockIncrement := .unchanged

/-- `KEYWAIT_MODE = edge` (R5, D16). -/
def keyWaitMode : KeyWaitMode := .edge

end Sys2Proof.Machine.Policy
end

