-- ==== Sys2Proof/Machine/Font.lean ====
section
/-! DEFINITION. The `FONT` parameter with the default R44 gives, and the reset contents of memory (R27). The 80 bytes are marked
general knowledge in the spec: UNVERIFIED, unsafe for claims about glyph pixels only, notes/assumptions/13.md. -/

namespace Sys2Proof.Machine

/-- Glyphs 0 to 7 of R44. -/
def fontLow : List Byte :=
  [0xF0, 0x90, 0x90, 0x90, 0xF0,
   0x20, 0x60, 0x20, 0x20, 0x70,
   0xF0, 0x10, 0xF0, 0x80, 0xF0,
   0xF0, 0x10, 0xF0, 0x10, 0xF0,
   0x90, 0x90, 0xF0, 0x10, 0x10,
   0xF0, 0x80, 0xF0, 0x10, 0xF0,
   0xF0, 0x80, 0xF0, 0x90, 0xF0,
   0xF0, 0x10, 0x20, 0x40, 0x40]

/-- Glyphs 8 to F of R44. -/
def fontHigh : List Byte :=
  [0xF0, 0x90, 0xF0, 0x90, 0xF0,
   0xF0, 0x90, 0xF0, 0x10, 0xF0,
   0xF0, 0x90, 0xF0, 0x90, 0x90,
   0xE0, 0x90, 0xE0, 0x90, 0xE0,
   0xF0, 0x80, 0x80, 0x80, 0xF0,
   0xE0, 0x90, 0x90, 0x90, 0xE0,
   0xF0, 0x80, 0xF0, 0x80, 0xF0,
   0xF0, 0x80, 0xF0, 0x80, 0x80]

/-- `FONT`, 80 bytes: glyph `d` at offset `5*d` (R44). -/
def font : List Byte := fontLow ++ fontHigh

/-- What cell `a` holds after reset: "M[a] = FONT[a] for 0 <= a < 80, M[a] = 0 for 80 <= a < 4096" (R23, R27). -/
def resetByte (a : Nat) : Byte := font.getD a 0

end Sys2Proof.Machine
end

