-- ==== Sys2Proof/Machine/Memory.lean ====
section
/-! DEFINITION. Memory as a canonical list of cells: addresses strictly rising and below 4096, no cell equal to its reset contents
(which is what an address that is not listed reads as, R27). Every cell has a value (R57). -/

namespace Sys2Proof.Machine

/-- The cells that differ from their reset contents. -/
abbrev Memory := List Host.Cell

/-- The canonical form, for cells at `lo` and above. -/
def Memory.wfFrom (lo : Nat) : Memory → Bool
  | [] => true
  | (a, b) :: rest => decide (lo ≤ a) && decide (a < Config.memSize) && (b != resetByte a) && Memory.wfFrom (a + 1) rest

/-- The canonical form. -/
def Memory.wf (m : Memory) : Bool := Memory.wfFrom 0 m

/-- The cell at address `a`, "no reduction applied" (R8). -/
def Memory.read : Memory → Nat → Byte
  | [], a => resetByte a
  | (a', b) :: rest, a => if a' = a then b else Memory.read rest a

/-- List the cell `(a, b)`. -/
def Memory.put (a : Nat) (b : Byte) : Memory → Memory
  | [] => [(a, b)]
  | (a', b') :: rest =>
    if a < a' then (a, b) :: (a', b') :: rest
    else if a = a' then (a, b) :: rest
    else (a', b') :: Memory.put a b rest

/-- Unlist the cell at `a`. -/
def Memory.drop (a : Nat) : Memory → Memory
  | [] => []
  | (a', b') :: rest => if a = a' then Memory.drop a rest else (a', b') :: Memory.drop a rest

/-- `M[a] <- b`, keeping the canonical form: a cell back at its reset contents is not listed. -/
def Memory.write (m : Memory) (a : Nat) (b : Byte) : Memory :=
  if b = resetByte a then m.drop a else m.put a b

/-- "Every address presented to M ... is reduced modulo 4096 ... at the point of access" (R41, `ADDR_POLICY = wrap`). -/
def reduce (addr : Nat) : Nat := addr % Config.memSize

end Sys2Proof.Machine
end

