-- ==== Sys2Proof/Machine/State.lean ====
section
/-! DEFINITION. The state of the core, all of R10's inventory and one counter of the model's own (`draws`), as plain data; the
reasons a step can stop; the state after reset (R27). -/

namespace Sys2Proof.Machine

/-- A fatal-error record, what the fault latch holds (R24, R150): taking one of these is a NEXT state (notes/assumptions/3.md). -/
inductive FatalError
  /-- Raised by dispatch on the word `op` fetched at `addr` (R151). -/
  | unrecognizedOpcode (op addr : Word)
  /-- Raised by `CALL` at `addr` with `depth` return addresses held (R152). -/
  | stackOverflow (depth : Fin 17) (addr : Word)
  /-- Raised by `RET` at `addr` with `depth` return addresses held (R153). -/
  | stackUnderflow (depth : Fin 17) (addr : Word)
  deriving DecidableEq, Repr

/-- Reasons for the outcome `fault`: there are none. The spec's three fatal errors have an effect it describes whole, the latch, and
are next states; no memory access faults (R41, R57), no encoding is undefined (R66). Nothing raises this; safe. -/
inductive Fault
  deriving DecidableEq, Repr

/-- Reasons for the outcome `refused`. -/
inductive Refusal
  /-- Raised by an arm of `exec` whose instruction has no meaning yet; no arm raises it now. Safe. -/
  | notModelled (mnemonic : String)
  deriving DecidableEq, Repr

/-- The state of the core (R10 of 10_state.md). -/
structure State where
  /-- `M` (R23, R40): the cells that differ from their reset contents. -/
  mem   : Memory
  /-- `V[0]`..`V[15]` (R11); `V[0xF]` is the flag register (R12). -/
  v     : Vector Byte 16
  /-- `I`, the index register (R13). -/
  i     : Word
  /-- `pc` (R14): between cycles the address of the next instruction. -/
  pc    : Word
  /-- The 16 cells of the call stack (R15). -/
  stack : Vector Word 16
  /-- `sp` (R16): the number of return addresses held, 0 to 16. -/
  sp    : Fin 17
  /-- The display buffer (R22): `fb[yy][xx]`, row from the top, column from the left. -/
  fb    : Vector (Vector Bool 64) 32
  /-- `DT`, the delay timer (R17). -/
  dt    : Byte
  /-- `ST`, the sound timer (R18). -/
  st    : Byte
  /-- The key register (R19): true is pressed. -/
  key   : Vector Bool 16
  /-- The pending-wait flag (R20). -/
  wait  : Bool
  /-- The wait's target register (R20). -/
  wreg  : Reg
  /-- The keys as last sampled while waiting (R21). -/
  kprev : Vector Bool 16
  /-- The fault latch (R24). -/
  fault : Option FatalError
  /-- The model's own: how many random bytes `RND` has sampled (R113; notes/assumptions/1.md). -/
  draws : Nat
  deriving DecidableEq, Repr

/-- The state after `Reset()` (R27, R180). `draws` is the model's own, 0 by DESIGN CHOICE (notes/assumptions/1.md). -/
def State.reset : State where
  mem   := []
  v     := .replicate 16 0
  i     := 0
  pc    := 0x200
  stack := .replicate 16 0
  sp    := 0
  fb    := .replicate 32 (.replicate 64 false)
  dt    := 0
  st    := 0
  key   := .replicate 16 false
  wait  := false
  wreg  := 0
  kprev := .replicate 16 false
  fault := none
  draws := 0

end Sys2Proof.Machine
end

