-- ==== Sys2Proof/Machine/Ops.lean ====
section
/-! DEFINITION. The operations over registers, memory, stack and display that the meanings share, and the one way an exception is
taken (R155). -/

namespace Sys2Proof.Machine

open Sys2Proof.Config

/-! ### Registers -/

/-- `V[r]` (R8). -/
def State.readReg (s : State) (r : Reg) : Byte := s.v.get r

/-- `V[r] <- b` (R8). -/
def State.writeReg (s : State) (r : Reg) (b : Byte) : State := { s with v := s.v.set r.val b r.isLt }

/-- `I <- w` (R13). -/
def State.setIndex (s : State) (w : Word) : State := { s with i := w }

/-- `pc <- w` (R8). -/
def State.setPc (s : State) (w : Word) : State := { s with pc := w }

/-- `DT <- b` (R17). -/
def State.setDelay (s : State) (b : Byte) : State := { s with dt := b }

/-- `ST <- b` (R18). -/
def State.setSound (s : State) (b : Byte) : State := { s with st := b }

/-- `skip`: "pc <- trunc_16(pc + 2)" (R80 (c)). Also the advance of fetch (R63). -/
def State.skip (s : State) : State := s.setPc (s.pc + 2)

/-- The flag register, register 15 (R12). -/
def flagReg : Reg := 15

/-- A flag as the byte written to `V[0xF]`: "exactly 0 or 1" (R12). -/
def flagByte (b : Bool) : Byte := if b then 1 else 0

/-- A result to `V[x]` and a flag to `V[0xF]`, in the order `FLAG_WRITE_ORDER` gives (R80 (b)). -/
def State.writeResultFlag (order : FlagWriteOrder) (s : State) (x : Reg) (res : Byte) (flag : Bool) : State :=
  match order with
  | .flagLast => (s.writeReg x res).writeReg flagReg (flagByte flag)
  | .flagFirst => (s.writeReg flagReg (flagByte flag)).writeReg x res

/-- A logic result to `V[x]`; with `LOGIC_WRITES_VF` it "would end with V[0xF] <- 0" (41_alu.md section 3). -/
def State.writeLogic (writesVF : Bool) (s : State) (x : Reg) (res : Byte) : State :=
  let s := s.writeReg x res
  if writesVF then s.writeReg flagReg 0 else s

/-! ### Memory -/

/-- `MemRead(addr, 1)` (R42): the address is reduced at the access (R41). -/
def State.readByte (s : State) (addr : Nat) : Byte := s.mem.read (reduce addr)

/-- `MemWrite(addr, 1, b)` (R42). -/
def State.writeByte (s : State) (addr : Nat) (b : Byte) : State := { s with mem := s.mem.write (reduce addr) b }

/-- `MemRead(addr, 2)`, big-endian, each address reduced separately; used by instruction fetch only (R42, R46). -/
def State.readPair (s : State) (addr : Nat) : Word := wordOfBytes (s.readByte addr) (s.readByte (addr + 1))

/-- Single-byte writes at `addr`, `addr + 1`, ... in ascending order (R46, R48). -/
def State.storeBytes (s : State) (addr : Nat) : List Byte → State
  | [] => s
  | b :: bs => (s.writeByte addr b).storeBytes (addr + 1) bs

/-- `V[0]`, ..., `V[x]`, the operand registers of the block store and load, in ascending order (R125, R126). -/
def regsUpTo (x : Reg) : List Reg := (List.range (x.val + 1)).map (Fin.ofNat 16)

/-- `V[j] <- MemRead(I + j, 1)` for each register of the list in turn (R126). -/
def State.loadRegs (s : State) : List Reg → State
  | [] => s
  | j :: js => (s.writeReg j (s.readByte (s.i.toNat + j.val))).loadRegs js

/-- What a block store or load of `V[0]` to `V[x]` leaves in `I` (R125): with `x_plus_1`, `I <- trunc_16(I + x + 1)`. -/
def State.afterBlock (inc : BlockIncrement) (s : State) (x : Reg) : State :=
  match inc with
  | .unchanged => s
  | .xPlusOne => s.setIndex (s.i + BitVec.ofNat 16 (x.val + 1))

/-! ### The call stack -/

/-- `stack[sp] <- w ; sp <- sp + 1` (R83); a full stack, which `CALL` tests first, is left as it is. -/
def State.push (s : State) (w : Word) : State :=
  if h : s.sp.val < 16 then
    { s with stack := s.stack.set s.sp.val w h, sp := ⟨s.sp.val + 1, by omega⟩ }
  else s

/-- `sp <- sp - 1 ; pc <- stack[sp]` (R81); an empty stack, which `RET` tests first, is left as it is. -/
def State.pop (s : State) : State :=
  if h : 0 < s.sp.val then
    { s with sp := ⟨s.sp.val - 1, by omega⟩, pc := s.stack[s.sp.val - 1]'(by omega) }
  else s

/-! ### The display -/

/-- `fb[yy][xx]` (R22). -/
def State.cell (s : State) (yy : Fin 32) (xx : Fin 64) : Bool := (s.fb.get yy).get xx

/-- `fb[yy][xx] <- b`. -/
def State.setCell (s : State) (yy : Fin 32) (xx : Fin 64) (b : Bool) : State :=
  { s with fb := s.fb.set yy.val ((s.fb.get yy).set xx.val b xx.isLt) yy.isLt }

/-- Every cell off (R131). -/
def State.clearDisplay (s : State) : State := { s with fb := .replicate 32 (.replicate 64 false) }

/-- One set bit of a sprite on its cell (R132): a lit cell sets the flag, then the cell is toggled. -/
def State.drawPixel (s : State) (py : Fin 32) (px : Fin 64) : State :=
  let lit := s.cell py px
  let s := if lit then s.writeReg flagReg 1 else s
  s.setCell py px (!lit)

/-- Row `r` of a sprite with origin `(x0, y0)` whose byte is `b`: bit `7 - c` is the pixel at column `x0 + c`, both axes wrapping
(R132). -/
def State.drawRow (s : State) (x0 y0 r : Nat) (b : Byte) : State :=
  (List.range 8).foldl
    (fun s c => if b.getLsbD (7 - c) then s.drawPixel (Fin.ofNat 32 (y0 + r)) (Fin.ofNat 64 (x0 + c)) else s) s

/-- The `n` rows of a sprite whose bytes stand at `base`, `base + 1`, ... (R132). -/
def State.drawRows (s : State) (x0 y0 base n : Nat) : State :=
  (List.range n).foldl (fun s r => s.drawRow x0 y0 r (s.readByte (base + r))) s

/-! ### Keys and random bytes -/

/-- `key[k] = 1`, with an index of 16 or more not pressed: "never indexes out of bounds" (R143, R154). -/
def keyIsDown (keys : Vector Bool 16) (k : Nat) : Bool := if h : k < 16 then keys[k] else false

/-- Arm the key wait for register `x`: `wait <- 1 ; wreg <- x ; kprev <- key` (R145). -/
def State.armKeyWait (s : State) (x : Reg) : State := { s with wait := true, wreg := x, kprev := s.key }

/-- Does key `k` end the wait: went from released to pressed, or with `level` is pressed (R146). -/
def State.keyHit (mode : KeyWaitMode) (s : State) (k : Nat) : Bool :=
  keyIsDown s.key k && (match mode with
    | .edge => !keyIsDown s.kprev k
    | .level => true)

/-- The lowest-numbered key that ends the wait (R146). -/
def State.firstHit (mode : KeyWaitMode) (s : State) : Option Nat := (List.range 16).find? (s.keyHit mode)

/-- `V[wreg] <- k ; wait <- 0`: the end of a key wait (R146). -/
def State.endKeyWait (s : State) (k : Nat) : State := { s.writeReg s.wreg (BitVec.ofNat 8 k) with wait := false }

/-- `kprev <- key` (R146). -/
def State.sampleKeys (s : State) : State := { s with kprev := s.key }

/-- `draw8()` (R113): the next free byte. -/
def State.drawnByte (s : State) : Byte := draw8 s.draws

/-- A draw has been taken: the next one is fresh (R113). -/
def State.countDraw (s : State) : State := { s with draws := s.draws + 1 }

/-! ### Taking an exception -/

/-- `raise Fatal`: "fault <- record ; every other piece of state keeps the value it had when raise was reached" (R155). There is no
return from it but `Reset()` (R157). -/
def State.raise (s : State) (e : FatalError) : State := { s with fault := some e }

/-- `at`: the address the executing instruction was fetched from, "also equal to trunc_16(pc - 2)" (R155), `pc` having advanced. -/
def State.instrAddr (s : State) : Word := s.pc - 2

/-- The record's code (R150). -/
def FatalError.code : FatalError → Nat
  | .unrecognizedOpcode _ _ => 1
  | .stackOverflow _ _ => 2
  | .stackUnderflow _ _ => 3

end Sys2Proof.Machine
end

