-- ==== Sys2Proof/Machine/Flags.lean ====
section
/-! DEFINITION. The comparisons that determine the flag (R12, R100): "the flag is exactly 0 or 1 and is fully determined by the
stated comparison". The collision flag of `DRW` is written cell by cell, in `State.drawPixel` (R132). -/

namespace Sys2Proof.Machine

/-- Carry out of `a + b`: the exact sum exceeds 255 (R107). -/
def carryOut (a b : Byte) : Bool := decide (a.toNat + b.toNat > 255)

/-- No borrow in `m - s`: the minuend is at least the subtrahend (R108, R110). -/
def noBorrow (m s : Byte) : Bool := decide (m.toNat ≥ s.toNat)

/-- The bit a shift right loses, `v[0]` (R109). -/
def lostRight (v : Byte) : Bool := v.getLsbD 0

/-- The bit a shift left loses, `v[7]` (R111). -/
def lostLeft (v : Byte) : Bool := v.getLsbD 7

end Sys2Proof.Machine
end

