-- ==== Sys2Proof/Machine/Operands.lean ====
section
/-! DEFINITION. Every way an instruction obtains an operand that is not a plain register read: zero-extended immediates and
registers, the shifted register, the key index, the glyph address, decimal digits, the draw origin, the block of registers. -/

namespace Sys2Proof.Machine

open Sys2Proof.Config

/-- `zext_16(nnn)` (R62). -/
def addrOf (nnn : Addr) : Word := nnn.setWidth 16

/-- `zext_16(V[r])` (R84, R122). -/
def State.readRegWide (s : State) (r : Reg) : Word := (s.readReg r).setWidth 16

/-- The register a shift reads (R109, R111): `V[x]`, or under `SHIFT_SRC = VY` `V[y]`. -/
def shiftReg (src : ShiftSrc) (x y : Reg) : Reg :=
  match src with
  | .vx => x
  | .vy => y

/-- `pressed(v) = (v < 16) and (key[v] = 1)`, `v` the whole 8-bit value (44_timers_keys.md section 2). -/
def State.pressed (s : State) (b : Byte) : Bool := keyIsDown s.key b.toNat

/-- `FONT_BASE + GLYPH_STRIDE * d` for the low nibble `d` of a register (R123). -/
def glyphAddr (b : Byte) : Word := BitVec.ofNat 16 (fontBase + glyphStride * (b.toNat % 16))

/-- Hundreds, tens and ones of a byte, as the bytes stored (R124). -/
def bcdDigits (b : Byte) : List Byte :=
  [BitVec.ofNat 8 (b.toNat / 100), BitVec.ofNat 8 (b.toNat / 10 % 10), BitVec.ofNat 8 (b.toNat % 10)]

/-- `V[x] mod 64`, the horizontal origin of a draw (R132). -/
def State.originX (s : State) (x : Reg) : Nat := (s.readReg x).toNat % 64

/-- `V[y] mod 32`, the vertical origin of a draw (R132). -/
def State.originY (s : State) (y : Reg) : Nat := (s.readReg y).toNat % 32

/-- The bytes of `V[0]` to `V[x]` (R125). -/
def State.blockBytes (s : State) (x : Reg) : List Byte := (regsUpTo x).map s.readReg

end Sys2Proof.Machine
end

