-- ==== Sys2Proof/Machine/Alu.lean ====
section
/-! DEFINITION. Register load and move, logic, arithmetic, shifts, random (41_alu.md). Operands are read from the state before
anything is written (R80 (a)). -/

namespace Sys2Proof.Machine

/-- `LD Vx, nn` (R101). -/
def execLdImm (x : Reg) (nn : Byte) (s : State) : Host.Outcome State Fault Refusal := .next (s.writeReg x nn)

/-- `ADD Vx, nn` (R102): no flag. -/
def execAddImm (x : Reg) (nn : Byte) (s : State) : Host.Outcome State Fault Refusal :=
  .next (s.writeReg x (s.readReg x + nn))

/-- `LD Vx, Vy` (R103). -/
def execLdReg (x y : Reg) (s : State) : Host.Outcome State Fault Refusal := .next (s.writeReg x (s.readReg y))

/-- `OR Vx, Vy` (R104). -/
def execOrReg (x y : Reg) (s : State) : Host.Outcome State Fault Refusal :=
  .next (s.writeLogic Policy.logicWritesVF x (s.readReg x ||| s.readReg y))

/-- `AND Vx, Vy` (R105). -/
def execAndReg (x y : Reg) (s : State) : Host.Outcome State Fault Refusal :=
  .next (s.writeLogic Policy.logicWritesVF x (s.readReg x &&& s.readReg y))

/-- `XOR Vx, Vy` (R106). -/
def execXorReg (x y : Reg) (s : State) : Host.Outcome State Fault Refusal :=
  .next (s.writeLogic Policy.logicWritesVF x (s.readReg x ^^^ s.readReg y))

/-- `ADD Vx, Vy` (R107): flag = carry out. -/
def execAddReg (x y : Reg) (s : State) : Host.Outcome State Fault Refusal :=
  let a := s.readReg x
  let b := s.readReg y
  .next (s.writeResultFlag Policy.flagWriteOrder x (a + b) (carryOut a b))

/-- `V[x] <- m - s`, flag = no borrow: both directions of subtract (R108, R110). -/
def State.subtractInto (s : State) (x : Reg) (minuend subtrahend : Byte) : State :=
  s.writeResultFlag Policy.flagWriteOrder x (minuend - subtrahend) (noBorrow minuend subtrahend)

/-- `SUB Vx, Vy` (R108): `V[x] - V[y]`. -/
def execSub (x y : Reg) (s : State) : Host.Outcome State Fault Refusal :=
  .next (s.subtractInto x (s.readReg x) (s.readReg y))

/-- `SUBN Vx, Vy` (R110): `V[y] - V[x]`. -/
def execSubn (x y : Reg) (s : State) : Host.Outcome State Fault Refusal :=
  .next (s.subtractInto x (s.readReg y) (s.readReg x))

/-- `SHR Vx {, Vy}` (R109): flag = the bit shifted out, a zero shifted in. -/
def execShr (x y : Reg) (s : State) : Host.Outcome State Fault Refusal :=
  let v := s.readReg (shiftReg Policy.shiftSrc x y)
  .next (s.writeResultFlag Policy.flagWriteOrder x (v >>> 1) (lostRight v))

/-- `SHL Vx {, Vy}` (R111): flag = the bit shifted out, a zero shifted in. -/
def execShl (x y : Reg) (s : State) : Host.Outcome State Fault Refusal :=
  let v := s.readReg (shiftReg Policy.shiftSrc x y)
  .next (s.writeResultFlag Policy.flagWriteOrder x (v <<< 1) (lostLeft v))

/-- `RND Vx, nn` (R112): the drawn byte AND `nn`; the old `V[x]` plays no part. -/
def execRnd (x : Reg) (nn : Byte) (s : State) : Host.Outcome State Fault Refusal :=
  .next ((s.writeReg x (s.drawnByte &&& nn)).countDraw)

end Sys2Proof.Machine
end

