-- ==== Sys2Proof/Machine/ControlFlow.lean ====
section
/-! DEFINITION. Control transfer (40_control_flow.md). The state a meaning is given is the one after fetch: `pc` already holds the
address of the following instruction (R63, R14). -/

namespace Sys2Proof.Machine

/-- `RET` (R81): `StackUnderflow` on an empty stack, else pop into `pc`. -/
def execRet (s : State) : Host.Outcome State Fault Refusal :=
  if s.sp.val = 0 then .next (s.raise (.stackUnderflow s.sp s.instrAddr)) else .next s.pop

/-- `JP nnn` (R82). -/
def execJp (nnn : Addr) (s : State) : Host.Outcome State Fault Refusal := .next (s.setPc (addrOf nnn))

/-- `CALL nnn` (R83): `StackOverflow` when 16 return addresses are held, else push the advanced `pc` and jump. -/
def execCall (nnn : Addr) (s : State) : Host.Outcome State Fault Refusal :=
  if s.sp.val = Config.stackDepth then .next (s.raise (.stackOverflow s.sp s.instrAddr))
  else .next ((s.push s.pc).setPc (addrOf nnn))

/-- `JP V0, nnn` (R84): the offset register is always `V[0]`. -/
def execJpV0 (nnn : Addr) (s : State) : Host.Outcome State Fault Refusal :=
  .next (s.setPc (addrOf nnn + s.readRegWide 0))

/-- A conditional skip (R80 (c)). -/
def State.skipIf (s : State) (c : Bool) : State := if c then s.skip else s

/-- `SE Vx, nn` (R85). -/
def execSeImm (x : Reg) (nn : Byte) (s : State) : Host.Outcome State Fault Refusal :=
  .next (s.skipIf (s.readReg x == nn))

/-- `SNE Vx, nn` (R86). -/
def execSneImm (x : Reg) (nn : Byte) (s : State) : Host.Outcome State Fault Refusal :=
  .next (s.skipIf (s.readReg x != nn))

/-- `SE Vx, Vy` (R87). -/
def execSeReg (x y : Reg) (s : State) : Host.Outcome State Fault Refusal :=
  .next (s.skipIf (s.readReg x == s.readReg y))

/-- `SNE Vx, Vy` (R88). -/
def execSneReg (x y : Reg) (s : State) : Host.Outcome State Fault Refusal :=
  .next (s.skipIf (s.readReg x != s.readReg y))

end Sys2Proof.Machine
end

