-- ==== Sys2Proof/Machine/Display.lean ====
section
/-! DEFINITION. Display clear and sprite draw (43_display.md). -/

namespace Sys2Proof.Machine

/-- `CLS` (R131). -/
def execCls (s : State) : Host.Outcome State Fault Refusal := .next s.clearDisplay

/-- `DRW Vx, Vy, n` (R132): the origin is read before the flag is cleared; then `n` rows, none when `n = 0`. -/
def execDrw (x y : Reg) (n : Nibble) (s : State) : Host.Outcome State Fault Refusal :=
  .next ((s.writeReg flagReg 0).drawRows (s.originX x) (s.originY y) s.i.toNat n.toNat)

end Sys2Proof.Machine
end

