-- ==== Sys2Proof/Machine/IndexMemory.lean ====
section
/-! DEFINITION. Index register and memory instructions (42_index_memory.md). The one addressing mode is `(I + j) mod 4096` (R120). -/

namespace Sys2Proof.Machine

/-- `LD I, nnn` (R121). -/
def execLdI (nnn : Addr) (s : State) : Host.Outcome State Fault Refusal := .next (s.setIndex (addrOf nnn))

/-- `ADD I, Vx` (R122): modulo 2^16, no flag. -/
def execAddIVx (x : Reg) (s : State) : Host.Outcome State Fault Refusal := .next (s.setIndex (s.i + s.readRegWide x))

/-- `LD F, Vx` (R123): the glyph of the low nibble. -/
def execLdFVx (x : Reg) (s : State) : Host.Outcome State Fault Refusal := .next (s.setIndex (glyphAddr (s.readReg x)))

/-- `LD B, Vx` (R124): three decimal digits at `I`, `I+1`, `I+2`. -/
def execLdBVx (x : Reg) (s : State) : Host.Outcome State Fault Refusal :=
  .next (s.storeBytes s.i.toNat (bcdDigits (s.readReg x)))

/-- `LD [I], Vx` (R125): `V[0]` to `V[x]` at `I` upwards. -/
def execLdMemVx (x : Reg) (s : State) : Host.Outcome State Fault Refusal :=
  .next ((s.storeBytes s.i.toNat (s.blockBytes x)).afterBlock Policy.blockIncrement x)

/-- `LD Vx, [I]` (R126): `V[0]` to `V[x]` from `I` upwards. -/
def execLdVxMem (x : Reg) (s : State) : Host.Outcome State Fault Refusal :=
  .next ((s.loadRegs (regsUpTo x)).afterBlock Policy.blockIncrement x)

end Sys2Proof.Machine
end

