-- ==== Sys2Proof/Machine/TimersKeys.lean ====
section
/-! DEFINITION. Timer access, key skips, the key wait and the poll a waiting cycle performs (44_timers_keys.md). -/

namespace Sys2Proof.Machine

/-- `LD Vx, DT` (R140). -/
def execLdVxDt (x : Reg) (s : State) : Host.Outcome State Fault Refusal := .next (s.writeReg x s.dt)

/-- `LD DT, Vx` (R141). -/
def execLdDtVx (x : Reg) (s : State) : Host.Outcome State Fault Refusal := .next (s.setDelay (s.readReg x))

/-- `LD ST, Vx` (R142). -/
def execLdStVx (x : Reg) (s : State) : Host.Outcome State Fault Refusal := .next (s.setSound (s.readReg x))

/-- `SKP Vx` (R143). -/
def execSkp (x : Reg) (s : State) : Host.Outcome State Fault Refusal := .next (s.skipIf (s.pressed (s.readReg x)))

/-- `SKNP Vx` (R144). -/
def execSknp (x : Reg) (s : State) : Host.Outcome State Fault Refusal := .next (s.skipIf (!s.pressed (s.readReg x)))

/-- `LD Vx, K` (R145): arms the wait and completes; `V[x]` is written later, by the poll. -/
def execLdVxK (x : Reg) (s : State) : Host.Outcome State Fault Refusal := .next (s.armKeyWait x)

/-- `KeyPoll()`, what a cycle does instead of fetching while `wait = 1` (R146). -/
def State.keyPoll (s : State) : State :=
  match s.firstHit Policy.keyWaitMode with
  | some k => (s.endKeyWait k).sampleKeys
  | none => s.sampleKeys

end Sys2Proof.Machine
end

