-- ==== Sys2Proof/Machine/Cycle.lean ====
section
/-! DEFINITION. `Cycle()` (R63): the core's one step. -/

namespace Sys2Proof.Machine

/-- `op <- MemRead(pc, 2)` (R63). -/
def State.fetchWord (s : State) : Word := s.readPair s.pc.toNat

/-- `Execute(op, a)` on the state after the advance (R64): the selected instruction, or `UnrecognizedOpcode` (R65, R151). -/
def execute (op : Word) (s : State) : Host.Outcome State Fault Refusal :=
  match decodeWord op with
  | .ok i => exec i s
  | .error _ => .next (s.raise (.unrecognizedOpcode op s.instrAddr))

/-- `Cycle()` (R63), its tests in the fixed order halted, waiting, fetch (R158): "exactly one of three things". -/
def cycle (s : State) : Host.Outcome State Fault Refusal :=
  if s.fault.isSome then .next s
  else if s.wait then .next s.keyPoll
  else execute s.fetchWord s.skip

end Sys2Proof.Machine
end

