-- ==== Sys2Proof/Machine/Step.lean ====
section
/-! DEFINITION. The machine's step, `Cycle()` (R63), and the placing of an instruction where the next step fetches it. -/

namespace Sys2Proof.Machine

/-- One step of the core: `Cycle()` (R63, R172). -/
def step (s : State) : Host.Outcome State Fault Refusal := cycle s

/-- `s` with the table's word `w` stored, big-endian, where the next step fetches, and with the core neither halted nor waiting, so
that the next step fetches it (notes/assumptions/4.md and 5.md). It stands for a load of the program from outside (R54). -/
def State.withFetchWord (s : State) (nbits w : Nat) : State :=
  { s.storeBytes s.pc.toNat [highByte (tableWord nbits w), lowByte (tableWord nbits w)] with wait := false, fault := none }

end Sys2Proof.Machine
end

