-- ==== Sys2Proof/Machine/HostOps.lean ====
section
/-! DEFINITION. The host's operations (R160) and the interleaving of host and core (R51, R172): `Reset`, `Load`, `Tick`, `SetKey`,
the read-outs, and runs over any list of events. -/

namespace Sys2Proof.Machine

/-- What `Load` reports (R54, R55). -/
inductive LoadStatus
  | ok
  | romTooLarge (len : Nat)
  deriving DecidableEq, Repr

/-- `Load(bytes)` (R54, R55): the whole image at 0x200, or nothing of it. -/
def load (bytes : List Byte) (s : State) : LoadStatus × State :=
  if imageFits bytes then (.ok, s.storeBytes Config.progBase bytes) else (.romTooLarge bytes.length, s)

/-- A timer's tick: one less, floored at 0 (R163). -/
def countDown (t : Byte) : Byte := if t = 0 then 0 else t - 1

/-- `Tick()` (R163): both timers, nothing else; works on a halted or waiting core. -/
def tick (s : State) : State := { s with dt := countDown s.dt, st := countDown s.st }

/-- `SetKey(k, pressed)` (R164): an index of 16 or more is ignored. -/
def setKey (k : Nat) (pressed : Bool) (s : State) : State :=
  if h : k < 16 then { s with key := s.key.set k pressed h } else s

/-- `Reset()` on a machine in any state (R180). The outside world's random bytes do not start over: the model's own counter goes on
(notes/assumptions/1.md). -/
def resetOp (s : State) : State := { State.reset with draws := s.draws }

/-- `ReadDisplay()` (R165): the 2048 cells, cell `(xx, yy)` at index `64*yy + xx`. -/
def readDisplay (s : State) : List Bool := (s.fb.toList.map Vector.toList).flatten

/-- `SoundActive()` (R166): `ST > 0`. -/
def soundActive (s : State) : Bool := decide (0 < s.st.toNat)

/-- `ReadFault()` (R167): the latch. -/
def readFault (s : State) : Option FatalError := s.fault

/-- A step of either agent (R172). -/
inductive Event
  | cycle
  | tick
  | setKey (k : Nat) (pressed : Bool)
  | load (bytes : List Byte)
  | reset
  deriving DecidableEq, Repr

/-- The effect of one event; each is atomic (R48). -/
def Event.apply (e : Event) (s : State) : Host.Outcome State Fault Refusal :=
  match e with
  | .cycle => step s
  | .tick => .next (Sys2Proof.Machine.tick s)
  | .setKey k p => .next (Sys2Proof.Machine.setKey k p s)
  | .load bytes => .next (Sys2Proof.Machine.load bytes s).2
  | .reset => .next (resetOp s)

/-- A run: events one at a time, in the order issued (R51). -/
def runEvents : List Event → State → Host.Outcome State Fault Refusal
  | [], s => .next s
  | e :: es, s =>
    match e.apply s with
    | .next t => runEvents es t
    | .fault r => .fault r
    | .refused r => .refused r

end Sys2Proof.Machine
end

