-- ==== Sys2Proof/Safety.lean ====
section
/-! DEFINITION. The terms claims are stated in: the conditions of the core (R156, R171, R192), which instruction a cycle executes, the
parts of the state and their frames, the cells a sprite covers (R132), the invariant, and the two relations of non-observability (R13,
R15). -/

namespace Sys2Proof

/-! ### What an instruction may write -/

/-- The registers an instruction may write while it executes: its destination, the block a load fills, and the flag register for the
six instructions of R12's table. (The register of a key wait is written later, by the poll.) -/
def Instr.writtenRegs : Instr → List Reg
  | .ldImm x _ | .addImm x _ | .ldReg x _ | .orReg x _ | .andReg x _ | .xorReg x _ | .rnd x _ | .ldVxDt x => [x]
  | .addReg x _ | .sub x _ | .shr x _ | .subn x _ | .shl x _ => [x, 15]
  | .drw _ _ _ => [15]
  | .ldVxMem x => Machine.regsUpTo x
  | .cls | .ret | .jp _ | .call _ | .seImm _ _ | .sneImm _ _ | .seReg _ _ | .sneReg _ _ | .ldI _ | .jpV0 _ | .skp _ | .sknp _
  | .ldVxK _ | .ldDtVx _ | .ldStVx _ | .addIVx _ | .ldFVx _ | .ldBVx _ | .ldMemVx _ => []

/-- The six instructions that write `V[0xF]` as a side effect (R12). -/
def Instr.writesFlag : Instr → Bool
  | .addReg _ _ | .sub _ _ | .shr _ _ | .subn _ _ | .shl _ _ | .drw _ _ _ => true
  | .cls | .ret | .jp _ | .call _ | .seImm _ _ | .sneImm _ _ | .seReg _ _ | .ldImm _ _ | .addImm _ _ | .ldReg _ _ | .orReg _ _
  | .andReg _ _ | .xorReg _ _ | .sneReg _ _ | .ldI _ | .jpV0 _ | .rnd _ _ | .skp _ | .sknp _ | .ldVxDt _ | .ldVxK _ | .ldDtVx _
  | .ldStVx _ | .addIVx _ | .ldFVx _ | .ldBVx _ | .ldMemVx _ | .ldVxMem _ => false

end Sys2Proof

namespace Sys2Proof.Machine

/-! ### Conditions of the core -/

/-- Halted: `fault != None` (R156, R171 (ii)). -/
def State.halted (s : State) : Bool := s.fault.isSome

/-- Neither halted nor waiting: the next cycle fetches (R63). -/
def State.running (s : State) : Bool := s.fault.isNone && !s.wait

/-- The next cycle fetches and executes `i` (R63, R64). -/
def State.executes (s : State) (i : Instr) : Prop := s.running = true ∧ decodeWord s.fetchWord = .ok i

/-- Finished, the customary idle (R192): a running core at `JP` to its own address, `pc < 4096`. -/
def State.finished (s : State) : Prop :=
  s.pc.toNat < 4096 ∧ s.executes (.jp (s.pc.setWidth 12))

/-- A run that is still safe: the core has not halted on a fatal error. "A model should treat a state with fault != None as a fault
state that is never final" (R156). -/
def State.safe (s : State) : Bool := !s.halted

/-- Every piece of the spec's state is at the value of R27's table, said through the model's reads; `draws`, the model's own, is left
out (notes/assumptions/1.md). -/
def State.holdsResetTable (t : State) : Prop :=
  (∀ a, a < 80 → some (t.readByte a) = font[a]?) ∧ (∀ a, 80 ≤ a → a < 4096 → t.readByte a = 0) ∧ (∀ r, t.readReg r = 0) ∧
    t.i = 0 ∧ t.pc = 0x200 ∧ t.sp = 0 ∧ (∀ j, t.stack.get j = 0) ∧ t.dt = 0 ∧ t.st = 0 ∧ (∀ yy xx, t.cell yy xx = false) ∧
    (∀ k, t.key.get k = false) ∧ t.wait = false ∧ t.wreg = 0 ∧ (∀ k, t.kprev.get k = false) ∧ t.fault = none

/-! ### Parts of the state and frames -/

/-- The parts of the state a frame speaks of (R10); `draws` is the model's own. -/
inductive Part
  | regs
  | mem
  | index
  | pc
  | stackCells
  | sp
  | display
  | delay
  | sound
  | keys
  | keyWait
  | latch
  | draws
  deriving DecidableEq, Repr

/-- A part reads after as it read before. -/
def Part.kept (p : Part) (s t : State) : Prop :=
  match p with
  | .regs => ∀ r, t.readReg r = s.readReg r
  | .mem => ∀ a, t.readByte a = s.readByte a
  | .index => t.i = s.i
  | .pc => t.pc = s.pc
  | .stackCells => t.stack = s.stack
  | .sp => t.sp = s.sp
  | .display => ∀ yy xx, t.cell yy xx = s.cell yy xx
  | .delay => t.dt = s.dt
  | .sound => t.st = s.st
  | .keys => t.key = s.key
  | .keyWait => t.wait = s.wait ∧ t.wreg = s.wreg ∧ t.kprev = s.kprev
  | .latch => t.fault = s.fault
  | .draws => t.draws = s.draws

/-- Every part but those listed is kept. -/
def KeepsAllBut (ps : List Part) (s t : State) : Prop := ∀ p, p ∉ ps → p.kept s t

/-- Every register but those listed is kept. -/
def KeepsRegsBut (rs : List Reg) (s t : State) : Prop := ∀ r, r ∉ rs → t.readReg r = s.readReg r

/-- Every cell of the stack but the one of index `j` is kept. -/
def KeepsStackCellsBut (j : Nat) (s t : State) : Prop := ∀ k (h : k < 16), k ≠ j → t.stack[k] = s.stack[k]

/-- Every byte of memory but the `n` stored at `base`, `base + 1`, ... (each address reduced, R41) is kept. -/
def KeepsBytesBut (base n : Nat) (s t : State) : Prop :=
  ∀ a, (∀ j, j < n → reduce a ≠ reduce (base + j)) → t.readByte a = s.readByte a

/-! ### The cells a draw covers -/

/-- A set bit of the sprite of `DRW Vx, Vy, n` in state `s` falls on the cell: row `r`, column `c` of the sprite, most significant bit
leftmost, origin reduced, both axes wrapping, sprite bytes at `(I + r) mod 4096` (R132). -/
def State.covers (s : State) (x y : Reg) (n : Nibble) (yy : Fin 32) (xx : Fin 64) : Prop :=
  ∃ r c : Nat, r < n.toNat ∧ c < 8 ∧ (s.readByte (s.i.toNat + r)).getLsbD (7 - c) = true ∧
    yy.val = ((s.readReg y).toNat % 32 + r) % 32 ∧ xx.val = ((s.readReg x).toNat % 64 + c) % 64

/-! ### The invariant -/

/-- The latch's record tells the truth about a halted core: what was fatal, at which address, with `pc = at + 2` (R150 to R153,
R155). -/
def FatalError.describes (e : FatalError) (s : State) : Bool :=
  match e with
  | .unrecognizedOpcode op addr => unrecognized op && (s.pc == addr + 2)
  | .stackOverflow depth addr => decide (depth = 16) && decide (s.sp = 16) && (s.pc == addr + 2)
  | .stackUnderflow depth addr => decide (depth = 0) && decide (s.sp = 0) && (s.pc == addr + 2)

/-- If halted, then not waiting and with a truthful record. -/
def State.latchHonest (s : State) : Bool :=
  match s.fault with
  | none => true
  | some e => !s.wait && e.describes s

/-- The invariant of the machine: memory in its canonical form and an honest latch. -/
def State.Inv (s : State) : Prop := s.mem.wf = true ∧ s.latchHonest = true

/-! ### Non-observability -/

/-- Two states that differ at most in bits 15 to 12 of `I`: "unobservable by a program" (R13). -/
def SameButHighIndexBits (s t : State) : Prop := ∃ w : Word, t = { s with i := w } ∧ w.toNat % 4096 = s.i.toNat % 4096

/-- Two states that differ at most in stack cells at or above `sp`: "dead: no rule reads them" (R15). -/
def SameButDeadStack (s t : State) : Prop :=
  ∃ st : Vector Word 16, t = { s with stack := st } ∧ ∀ k (h : k < 16), k < s.sp.val → st[k] = s.stack[k]

end Sys2Proof.Machine
end

