-- ==== Sys2Proof/Certificates/Slice0/Obligations.lean ====
section
/-! DEFINITION. The statements for the provers, one `def Obligations.<Name> : Prop` each, listed in OBLIGATIONS.json. Most come from one
numbered rule of spec/. A result statement says that the instruction's word decodes to it, that `exec` answers a next state from EVERY
state (or where), what that state holds, in numbers, and what it keeps. `exec` is given the state after fetch: `pc` has advanced
(notes/assumptions/10.md). Throughout, a fatal error is a next state with the latch set (notes/assumptions/3.md). A log entry <n> is
notes/assumptions/<n>.md. -/

open Sys2Proof Sys2Proof.Machine

/-! ### Encoding -/

/-- Every instruction decodes from its own word and from its own bytes at the head of any byte sequence (R61, R64, R68). -/
def Obligations.DecodeOfEncodeIsIdentity : Prop :=
  ∀ (i : Instr) (rest : List Byte),
    decodeWord (encode i) = .ok i ∧ decodeBytes (encodeBytes i ++ rest) = .ok (i, rest)

/-- A word that decodes is the encoding of what it decodes to: no bit of it is dropped, the ignored `y` of a shift included (R64, R66). -/
def Obligations.EncodeOfDecodeIsIdentity : Prop :=
  ∀ (op : Word) (i : Instr), decodeWord op = .ok i → encode i = op

/-- The decoder selects the instruction of the first row of R64's map whose mask and match satisfy the word, and rejects the word by
name when no row does (R64). -/
def Obligations.DecoderFollowsOpcodeMap : Prop :=
  ∀ op : Word,
    match selectRow op with
    | some r => ∃ i, decodeWord op = .ok i ∧ i.rowNumber = r.number
    | none => decodeWord op = .error (.unrecognizedOpcode op)

/-- "no word satisfies two rows" (R64), and every row can be satisfied. -/
def Obligations.OpcodeMapRowsAreDisjoint : Prop :=
  (∀ r ∈ opcodeMap, ∀ r' ∈ opcodeMap, ∀ op : Word, r.selects op = true → r'.selects op = true → r = r') ∧
    ∀ r ∈ opcodeMap, r.selects r.value = true

/-- The unrecognized words are exactly those of R65's table, class by class. -/
def Obligations.UnrecognizedWordsByClass : Prop :=
  ∀ op : Word, unrecognized op = true ↔
    (fieldC op = 0 ∧ fieldNNN op ≠ 0x0E0 ∧ fieldNNN op ≠ 0x0EE) ∨
    (fieldC op = 5 ∧ fieldN op ≠ 0) ∨
    (fieldC op = 8 ∧ (fieldN op = 8 ∨ fieldN op = 9 ∨ fieldN op = 0xA ∨ fieldN op = 0xB ∨ fieldN op = 0xC ∨ fieldN op = 0xD ∨
      fieldN op = 0xF)) ∨
    (fieldC op = 9 ∧ fieldN op ≠ 0) ∨
    (fieldC op = 0xE ∧ fieldNN op ≠ 0x9E ∧ fieldNN op ≠ 0xA1) ∨
    (fieldC op = 0xF ∧ fieldNN op ≠ 0x07 ∧ fieldNN op ≠ 0x0A ∧ fieldNN op ≠ 0x15 ∧ fieldNN op ≠ 0x18 ∧ fieldNN op ≠ 0x1E ∧
      fieldNN op ≠ 0x29 ∧ fieldNN op ≠ 0x33 ∧ fieldNN op ≠ 0x55 ∧ fieldNN op ≠ 0x65)

/-- A few words of the spec's own examples decode to what they stand for, and two are rejected by name. -/
def Obligations.ExampleWordsDecode : Prop :=
  decodeWord 0xD125 = .ok (.drw 1 2 5) ∧ decodeWord 0x6A05 = .ok (.ldImm 10 5) ∧ decodeWord 0x8125 = .ok (.sub 1 2) ∧
    decodeWord 0xBFFF = .ok (.jpV0 0xFFF) ∧ decodeWord 0xF333 = .ok (.ldBVx 3) ∧ decodeWord 0xE2A1 = .ok (.sknp 2) ∧
    decodeWord 0x5121 = .error (.unrecognizedOpcode 0x5121) ∧ decodeWord 0x0000 = .error (.unrecognizedOpcode 0)

/-! ### The cycle -/

/-- When the core is neither halted nor waiting and the two bytes at `pc`, big-endian, decode to `i`, a step is `i` executed on the state
with `pc` advanced by 2 (R63). -/
def Obligations.StepRunsDecodedInstruction : Prop :=
  ∀ (s : State) (i : Instr), s.fault = none → s.wait = false →
    decodeWord (s.readByte s.pc.toNat ++ s.readByte (s.pc.toNat + 1)) = .ok i →
    step s = exec i { s with pc := s.pc + 2 }

/-- When those two bytes select no instruction, the step answers the state with `pc` advanced and the latch holding the raw word and the
address it was fetched from, nothing else changed (R151, R155). -/
def Obligations.UnrecognizedOpcodeIsFatal : Prop :=
  ∀ (s : State) (op : Word), s.fault = none → s.wait = false →
    op = (s.readByte s.pc.toNat ++ s.readByte (s.pc.toNat + 1) : Word) → unrecognized op = true →
    step s = .next { s with pc := s.pc + 2, fault := some (.unrecognizedOpcode op s.pc) }

/-- The state after a fatal cycle is the state before it with two differences, the advance of `pc` and the record; the record's address
is the one fetched from (R155). -/
def Obligations.FatalCycleChangesOnlyPcAndLatch : Prop :=
  ∀ (s t : State) (e : FatalError), s.fault = none → step s = .next t → t.fault = some e →
    t = { s with pc := s.pc + 2, fault := some e } ∧
      (e = .unrecognizedOpcode s.fetchWord s.pc ∨ e = .stackOverflow 16 s.pc ∨ e = .stackUnderflow 0 s.pc)

/-- A halted core's cycle changes nothing; ticks, keys, loads and the read-outs work on it as on a running core and leave the latch; a
reset clears it (R156). -/
def Obligations.HaltedCoreIsFrozen : Prop :=
  ∀ (s : State) (e : FatalError), s.fault = some e →
    step s = .next s ∧
    (tick s).fault = some e ∧ (tick s).dt.toNat = s.dt.toNat - 1 ∧ (tick s).st.toNat = s.st.toNat - 1 ∧
    (∀ (k : Fin 16) (p : Bool), (setKey k.val p s).fault = some e ∧ (setKey k.val p s).key.get k = p) ∧
    (∀ bytes, (load bytes s).2.fault = some e ∧
      (bytes.length ≤ 3584 → ∀ j (h : j < bytes.length), (load bytes s).2.readByte (0x200 + j) = bytes[j])) ∧
    readFault s = some e ∧ (soundActive s = true ↔ s.st.toNat > 0) ∧
    (∀ (yy : Fin 32) (xx : Fin 64), (readDisplay s)[64 * yy.val + xx.val]? = some (s.cell yy xx)) ∧
    (resetOp s).fault = none

/-- One key poll instead of a fetch (R146): no transition, nothing but the sample; else the lowest key that went from released to pressed
is stored in the target and the wait ends. -/
def Obligations.WaitingCyclePollsKeys : Prop :=
  ∀ s : State, s.fault = none → s.wait = true →
    ∃ t, step s = .next t ∧ t.kprev = s.key ∧ t.wreg = s.wreg ∧ KeepsAllBut [.regs, .keyWait] s t ∧
      ((∀ k : Fin 16, ¬ (s.key.get k = true ∧ s.kprev.get k = false)) → t.wait = true ∧ ∀ r, t.readReg r = s.readReg r) ∧
      (∀ k : Fin 16, s.key.get k = true → s.kprev.get k = false →
        (∀ j : Fin 16, j < k → ¬ (s.key.get j = true ∧ s.kprev.get j = false)) →
        t.wait = false ∧ (t.readReg s.wreg).toNat = k.val ∧ KeepsRegsBut [s.wreg] s t)

/-- Every step answers a next state, none the outcome `fault` or `refused`: every word selects an instruction or is fatal (R66) and no
memory access faults (R41). That a fatal word, `CALL` at 16, `RET` at 0 and the halted core answer next states too, where the spec speaks
of fault states, is the model's choice: log entry 3, DEDUCED. -/
def Obligations.StepAlwaysAnswersNext : Prop :=
  ∀ s : State, ∃ t, step s = .next t

/-- Every finite run of cycles and host operations, in any order, from any state, completes. That a cycle which is fatal and the cycles of
a halted core answer next states, so that a run goes on through them, is the model's choice (log entry 3, DEDUCED), as is the form of a run
as a list of events (log entry 9, DESIGN CHOICE). -/
def Obligations.EveryRunAnswersNext : Prop :=
  ∀ (es : List Event) (s : State), ∃ t, runEvents es s = .next t

/-! ### Invariants -/

/-- The reset state meets the invariant: memory in canonical form, which is the model's own form and no rule of the spec (log entry 8,
DESIGN CHOICE), and an honest latch, since `fault` is `None` (R27). -/
def Obligations.ResetMeetsInvariant : Prop := State.reset.Inv

/-- Every step keeps the invariant. Its latch clause: a halted core is not waiting and has a truthful record of what was fatal, with `pc` two
past it (R150 to R153, R155). Its memory clause, the canonical form of the list, is the model's own and no rule of the spec (log entry 8,
DESIGN CHOICE). -/
def Obligations.StepKeepsInvariant : Prop :=
  ∀ s t : State, s.Inv → step s = .next t → t.Inv

/-- Every run of cycles and host operations keeps the invariant: the honest latch (R150 to R153, R155) and, the model's own and no rule of
the spec (log entry 8, DESIGN CHOICE), the canonical form of memory. -/
def Obligations.RunsKeepInvariant : Prop :=
  ∀ (es : List Event) (s t : State), s.Inv → runEvents es s = .next t → t.Inv

/-- The latch, once set, stays the same record until a reset, whatever the host does meanwhile, and the program's state stays with it
(R28, R156, R157). -/
def Obligations.LatchIsStickyUntilReset : Prop :=
  ∀ (es : List Event) (s t : State) (e : FatalError), s.fault = some e → Event.reset ∉ es → runEvents es s = .next t →
    t.fault = some e ∧ KeepsAllBut [.mem, .delay, .sound, .keys] s t

/-! ### Whole-machine rules -/

/-- A cycle changes memory only when it executes `LD B, Vx` or `LD [I], Vx`, and the display only when it executes `CLS` or `DRW` (R22,
R28, R40, R130). -/
def Obligations.OnlyStoresAndDrawsWrite : Prop :=
  ∀ s t : State, step s = .next t →
    (∀ a, t.readByte a ≠ s.readByte a → ∃ x, s.executes (.ldBVx x) ∨ s.executes (.ldMemVx x)) ∧
    (∀ yy xx, t.cell yy xx ≠ s.cell yy xx → s.executes .cls ∨ ∃ x y n, s.executes (.drw x y n))

/-- A cycle changes `I` only when it executes one of its three instructions, `DT` only with `LD DT, Vx`, `ST` only with `LD ST, Vx`, and
never a key (R13, R17, R18, R19). -/
def Obligations.OnlyNamedInstructionsWriteIndexAndTimers : Prop :=
  ∀ s t : State, step s = .next t →
    (t.i ≠ s.i → (∃ nnn, s.executes (.ldI nnn)) ∨ ∃ x, s.executes (.addIVx x) ∨ s.executes (.ldFVx x)) ∧
    (t.dt ≠ s.dt → ∃ x, s.executes (.ldDtVx x)) ∧ (t.st ≠ s.st → ∃ x, s.executes (.ldStVx x)) ∧ t.key = s.key

/-- A cycle moves `sp` only with `CALL` or `RET` and writes a stack cell only with `CALL`; it arms the key wait only with `LD Vx, K`; it
sets the latch only on an unrecognized word, `CALL` or `RET` (R15, R16, R20, R24, R150). -/
def Obligations.OnlyNamedCausesMoveStackWaitAndLatch : Prop :=
  ∀ s t : State, step s = .next t →
    (t.sp ≠ s.sp → s.executes .ret ∨ ∃ nnn, s.executes (.call nnn)) ∧
    (t.stack ≠ s.stack → ∃ nnn, s.executes (.call nnn)) ∧
    (s.wait = false → t.wait = true → ∃ x, s.executes (.ldVxK x)) ∧
    (t.fault ≠ s.fault → (s.running = true ∧ unrecognized s.fetchWord = true) ∨ s.executes .ret ∨ ∃ nnn, s.executes (.call nnn))

/-- No instruction writes a register other than its destination, the registers of a block load, and, for the six of R12's table, the flag
register (R12). -/
def Obligations.RegistersOutsideDestinationAreKept : Prop :=
  ∀ (i : Instr) (s t : State), exec i s = .next t → KeepsRegsBut i.writtenRegs s t

/-- Immediately after any of the six instructions of R12's table the flag is exactly 0 or 1, the form with `x = 0xF` included (R12, R28). -/
def Obligations.FlagIsZeroOrOneAfterFlagInstructions : Prop :=
  ∀ (i : Instr) (s t : State), i.writesFlag = true → exec i s = .next t → t.readReg 15 = 0 ∨ t.readReg 15 = 1

/-- `Tick` writes only the timers, `SetKey` only the keys, `Load` only memory at 0x200 and above, and no cycle writes a key (R26). -/
def Obligations.EachOperationWritesOnlyItsParts : Prop :=
  ∀ s : State, KeepsAllBut [.delay, .sound] s (tick s) ∧ (∀ k p, KeepsAllBut [.keys] s (setKey k p s)) ∧
    (∀ bytes, KeepsAllBut [.mem] s (load bytes s).2 ∧ ∀ a, a < 0x200 → (load bytes s).2.readByte a = s.readByte a) ∧
    (∀ t, step s = .next t → t.key = s.key)

/-! ### Control flow -/

/-- `RET` (R81, R153): with `d + 1` return addresses held, `pc` becomes the top entry and `d` remain; on an empty stack the latch is set. -/
def Obligations.ReturnPopsOrUnderflows : Prop :=
  decodeWord 0x00EE = .ok .ret ∧ ∀ s : State,
    (∀ d : Fin 16, s.sp.val = d.val + 1 →
      ∃ t, exec .ret s = .next t ∧ t.sp.val = d.val ∧ t.pc = s.stack.get d ∧ KeepsAllBut [.sp, .pc] s t) ∧
    (s.sp = 0 → ∃ t, exec .ret s = .next t ∧ t.fault = some (.stackUnderflow 0 (s.pc - 2)) ∧ KeepsAllBut [.latch] s t)

/-- `CALL nnn` (R83, R152): with `d < 16` return addresses held, the advanced `pc` is pushed and control goes to `nnn`; with 16 held the
latch is set. -/
def Obligations.CallPushesOrOverflows : Prop :=
  ∀ (nnn : Addr) (s : State), decodeWord (0x2#4 ++ nnn) = .ok (.call nnn) ∧
    (∀ d : Fin 16, s.sp.val = d.val →
      ∃ t, exec (.call nnn) s = .next t ∧ t.sp.val = d.val + 1 ∧ t.stack.get d = s.pc ∧ KeepsStackCellsBut d.val s t ∧
        t.pc.toNat = nnn.toNat ∧ KeepsAllBut [.sp, .stackCells, .pc] s t) ∧
    (s.sp = 16 → ∃ t, exec (.call nnn) s = .next t ∧ t.fault = some (.stackOverflow 16 (s.pc - 2)) ∧ KeepsAllBut [.latch] s t)

/-- Call then return, for every depth 1 to 16 and from wherever the return stands, restores `pc` to the instruction after the call and
leaves the depth as it was; only dead stack cells differ (R81, R83). -/
def Obligations.CallThenReturnRestoresPc : Prop :=
  ∀ (nnn : Addr) (s : State) (w : Word), s.sp.val < 16 →
    ∃ t u, exec (.call nnn) s = .next t ∧ exec .ret { t with pc := w } = .next u ∧ u.pc = s.pc ∧ u.sp = s.sp ∧
      KeepsStackCellsBut s.sp.val s u ∧ KeepsAllBut [.stackCells] s u

/-- `JP nnn` (R82). -/
def Obligations.JumpGoesToAddress : Prop :=
  ∀ (nnn : Addr) (s : State), decodeWord (0x1#4 ++ nnn) = .ok (.jp nnn) ∧
    ∃ t, exec (.jp nnn) s = .next t ∧ t.pc.toNat = nnn.toNat ∧ KeepsAllBut [.pc] s t

/-- `JP V0, nnn` (R84): the sum is not reduced, and the offset register is `V[0]` whatever the word's second nibble. -/
def Obligations.IndexedJumpAddsRegisterZero : Prop :=
  ∀ (nnn : Addr) (s : State), decodeWord (0xB#4 ++ nnn) = .ok (.jpV0 nnn) ∧
    ∃ t, exec (.jpV0 nnn) s = .next t ∧ t.pc.toNat = nnn.toNat + (s.readReg 0).toNat ∧ KeepsAllBut [.pc] s t

/-- The four compare skips (R85 to R88). -/
def Obligations.CompareSkips : Prop :=
  ∀ (x y : Reg) (nn : Byte) (s : State),
    (decodeWord (0x3#4 ++ regBits x ++ nn) = .ok (.seImm x nn) ∧ ∃ t, exec (.seImm x nn) s = .next t ∧
      t.pc = (if (s.readReg x).toNat = nn.toNat then s.pc + 2 else s.pc) ∧ KeepsAllBut [.pc] s t) ∧
    (decodeWord (0x4#4 ++ regBits x ++ nn) = .ok (.sneImm x nn) ∧ ∃ t, exec (.sneImm x nn) s = .next t ∧
      t.pc = (if (s.readReg x).toNat = nn.toNat then s.pc else s.pc + 2) ∧ KeepsAllBut [.pc] s t) ∧
    (decodeWord (0x5#4 ++ regBits x ++ regBits y ++ 0x0#4) = .ok (.seReg x y) ∧ ∃ t, exec (.seReg x y) s = .next t ∧
      t.pc = (if (s.readReg x).toNat = (s.readReg y).toNat then s.pc + 2 else s.pc) ∧ KeepsAllBut [.pc] s t) ∧
    (decodeWord (0x9#4 ++ regBits x ++ regBits y ++ 0x0#4) = .ok (.sneReg x y) ∧ ∃ t, exec (.sneReg x y) s = .next t ∧
      t.pc = (if (s.readReg x).toNat = (s.readReg y).toNat then s.pc else s.pc + 2) ∧ KeepsAllBut [.pc] s t)

/-- A cycle that executes a compare skip moves `pc` by 4 when the condition holds and by 2 when it does not, and changes nothing else:
the skipped word is not looked at (R80 (c)). -/
def Obligations.SkipCycleMovesPcByFourOrTwo : Prop :=
  ∀ (s : State) (x y : Reg) (nn : Byte),
    (s.executes (.seImm x nn) →
      step s = .next { s with pc := s.pc + (if s.readReg x = nn then 4 else 2) }) ∧
    (s.executes (.sneImm x nn) →
      step s = .next { s with pc := s.pc + (if s.readReg x = nn then 2 else 4) }) ∧
    (s.executes (.seReg x y) →
      step s = .next { s with pc := s.pc + (if s.readReg x = s.readReg y then 4 else 2) }) ∧
    (s.executes (.sneReg x y) →
      step s = .next { s with pc := s.pc + (if s.readReg x = s.readReg y then 2 else 4) })

/-- In the finished state of R192, a `JP` to its own address, every further cycle leaves all state unchanged. -/
def Obligations.FinishedStateIsFixed : Prop :=
  ∀ s : State, s.finished → step s = .next s

/-! ### Register load, move, logic, arithmetic -/

/-- `LD Vx, nn` and `LD Vx, Vy` (R101, R103). -/
def Obligations.LoadsWriteTheirRegister : Prop :=
  ∀ (x y : Reg) (nn : Byte) (s : State),
    (decodeWord (0x6#4 ++ regBits x ++ nn) = .ok (.ldImm x nn) ∧ ∃ t, exec (.ldImm x nn) s = .next t ∧
      t.readReg x = nn ∧ KeepsRegsBut [x] s t ∧ KeepsAllBut [.regs] s t) ∧
    (decodeWord (0x8#4 ++ regBits x ++ regBits y ++ 0x0#4) = .ok (.ldReg x y) ∧ ∃ t, exec (.ldReg x y) s = .next t ∧
      t.readReg x = s.readReg y ∧ KeepsRegsBut [x] s t ∧ KeepsAllBut [.regs] s t)

/-- `ADD Vx, nn` (R102): modulo 256, and no flag even when the sum exceeds 255. -/
def Obligations.AddImmediateWritesNoFlag : Prop :=
  ∀ (x : Reg) (nn : Byte) (s : State), decodeWord (0x7#4 ++ regBits x ++ nn) = .ok (.addImm x nn) ∧
    ∃ t, exec (.addImm x nn) s = .next t ∧ (t.readReg x).toNat = ((s.readReg x).toNat + nn.toNat) % 256 ∧
      KeepsRegsBut [x] s t ∧ KeepsAllBut [.regs] s t

/-- `OR`, `AND`, `XOR` bit by bit; none touches the flag (R104, R105, R106). -/
def Obligations.LogicWritesNoFlag : Prop :=
  ∀ (x y : Reg) (s : State),
    (decodeWord (0x8#4 ++ regBits x ++ regBits y ++ 0x1#4) = .ok (.orReg x y) ∧ ∃ t, exec (.orReg x y) s = .next t ∧
      (∀ k, (t.readReg x).getLsbD k = ((s.readReg x).getLsbD k || (s.readReg y).getLsbD k)) ∧
      KeepsRegsBut [x] s t ∧ KeepsAllBut [.regs] s t) ∧
    (decodeWord (0x8#4 ++ regBits x ++ regBits y ++ 0x2#4) = .ok (.andReg x y) ∧ ∃ t, exec (.andReg x y) s = .next t ∧
      (∀ k, (t.readReg x).getLsbD k = ((s.readReg x).getLsbD k && (s.readReg y).getLsbD k)) ∧
      KeepsRegsBut [x] s t ∧ KeepsAllBut [.regs] s t) ∧
    (decodeWord (0x8#4 ++ regBits x ++ regBits y ++ 0x3#4) = .ok (.xorReg x y) ∧ ∃ t, exec (.xorReg x y) s = .next t ∧
      (∀ k, (t.readReg x).getLsbD k = ((s.readReg x).getLsbD k != (s.readReg y).getLsbD k)) ∧
      KeepsRegsBut [x] s t ∧ KeepsAllBut [.regs] s t)

/-- `ADD Vx, Vy` (R107): the sum modulo 256 and its carry; with `x = 0xF` the carry is what `V[0xF]` holds. -/
def Obligations.AddSetsCarry : Prop :=
  ∀ (x y : Reg) (s : State), decodeWord (0x8#4 ++ regBits x ++ regBits y ++ 0x4#4) = .ok (.addReg x y) ∧
    ∃ t, exec (.addReg x y) s = .next t ∧
      (x ≠ 15 → (t.readReg x).toNat = ((s.readReg x).toNat + (s.readReg y).toNat) % 256) ∧
      (t.readReg 15).toNat = (if (s.readReg x).toNat + (s.readReg y).toNat > 255 then 1 else 0) ∧
      KeepsRegsBut [x, 15] s t ∧ KeepsAllBut [.regs] s t

/-- `SUB` and `SUBN` (R108, R110): the difference modulo 256 and "no borrow", 1 at equal operands; with `x = 0xF` the flag is what
`V[0xF]` holds. -/
def Obligations.SubtractsSetNoBorrow : Prop :=
  ∀ (x y : Reg) (s : State),
    (decodeWord (0x8#4 ++ regBits x ++ regBits y ++ 0x5#4) = .ok (.sub x y) ∧ ∃ t, exec (.sub x y) s = .next t ∧
      (x ≠ 15 → ((t.readReg x).toNat : Int) = ((s.readReg x).toNat - (s.readReg y).toNat) % 256) ∧
      (t.readReg 15).toNat = (if (s.readReg x).toNat ≥ (s.readReg y).toNat then 1 else 0) ∧
      KeepsRegsBut [x, 15] s t ∧ KeepsAllBut [.regs] s t) ∧
    (decodeWord (0x8#4 ++ regBits x ++ regBits y ++ 0x7#4) = .ok (.subn x y) ∧ ∃ t, exec (.subn x y) s = .next t ∧
      (x ≠ 15 → ((t.readReg x).toNat : Int) = ((s.readReg y).toNat - (s.readReg x).toNat) % 256) ∧
      (t.readReg 15).toNat = (if (s.readReg y).toNat ≥ (s.readReg x).toNat then 1 else 0) ∧
      KeepsRegsBut [x, 15] s t ∧ KeepsAllBut [.regs] s t)

/-- `SHR` and `SHL` (R109, R111): half and double modulo 256 of `V[x]`, the flag the bit shifted out; `y` is ignored. -/
def Obligations.ShiftsSetLostBit : Prop :=
  ∀ (x y : Reg) (s : State),
    (decodeWord (0x8#4 ++ regBits x ++ regBits y ++ 0x6#4) = .ok (.shr x y) ∧ ∃ t, exec (.shr x y) s = .next t ∧
      (x ≠ 15 → (t.readReg x).toNat = (s.readReg x).toNat / 2) ∧ (t.readReg 15).toNat = (s.readReg x).toNat % 2 ∧
      KeepsRegsBut [x, 15] s t ∧ KeepsAllBut [.regs] s t) ∧
    (decodeWord (0x8#4 ++ regBits x ++ regBits y ++ 0xE#4) = .ok (.shl x y) ∧ ∃ t, exec (.shl x y) s = .next t ∧
      (x ≠ 15 → (t.readReg x).toNat = (s.readReg x).toNat * 2 % 256) ∧ (t.readReg 15).toNat = (s.readReg x).toNat / 128 ∧
      KeepsRegsBut [x, 15] s t ∧ KeepsAllBut [.regs] s t)

/-- `RND Vx, nn` (R112): the drawn byte AND `nn`, whatever byte is drawn; the next draw is a fresh one. The place of the draw among the
free values, the counter `draws`, is the model's own (notes/assumptions/1.md). -/
def Obligations.RandomIsMaskedDraw : Prop :=
  ∀ (x : Reg) (nn : Byte) (s : State), decodeWord (0xC#4 ++ regBits x ++ nn) = .ok (.rnd x nn) ∧
    ∃ t, exec (.rnd x nn) s = .next t ∧ t.readReg x = Config.draw8 s.draws &&& nn ∧ t.draws = s.draws + 1 ∧
      (∀ k, nn.getLsbD k = false → (t.readReg x).getLsbD k = false) ∧
      KeepsRegsBut [x] s t ∧ KeepsAllBut [.regs, .draws] s t

/-! ### Index register and memory -/

/-- `LD I, nnn`, `ADD I, Vx`, `LD F, Vx` (R121, R122, R123); no flag, and for the second the sum modulo 2^16. -/
def Obligations.IndexInstructionsWriteIndex : Prop :=
  ∀ (nnn : Addr) (x : Reg) (s : State),
    (decodeWord (0xA#4 ++ nnn) = .ok (.ldI nnn) ∧ ∃ t, exec (.ldI nnn) s = .next t ∧
      t.i.toNat = nnn.toNat ∧ KeepsAllBut [.index] s t) ∧
    (decodeWord (0xF#4 ++ regBits x ++ 0x1E#8) = .ok (.addIVx x) ∧ ∃ t, exec (.addIVx x) s = .next t ∧
      t.i.toNat = (s.i.toNat + (s.readReg x).toNat) % 65536 ∧ KeepsAllBut [.index] s t) ∧
    (decodeWord (0xF#4 ++ regBits x ++ 0x29#8) = .ok (.ldFVx x) ∧ ∃ t, exec (.ldFVx x) s = .next t ∧
      t.i.toNat = 5 * ((s.readReg x).toNat % 16) ∧ KeepsAllBut [.index] s t)

/-- `LD B, Vx` (R124): the three decimal digits of the register at `I`, `I + 1`, `I + 2`, each address reduced; `I` and every other byte
unchanged. -/
def Obligations.BcdStoresDecimalDigits : Prop :=
  ∀ (x : Reg) (s : State), decodeWord (0xF#4 ++ regBits x ++ 0x33#8) = .ok (.ldBVx x) ∧
    ∃ t, exec (.ldBVx x) s = .next t ∧
      (t.readByte s.i.toNat).toNat * 100 + (t.readByte (s.i.toNat + 1)).toNat * 10 + (t.readByte (s.i.toNat + 2)).toNat =
        (s.readReg x).toNat ∧
      (t.readByte s.i.toNat).toNat ≤ 2 ∧ (t.readByte (s.i.toNat + 1)).toNat ≤ 9 ∧ (t.readByte (s.i.toNat + 2)).toNat ≤ 9 ∧
      KeepsBytesBut s.i.toNat 3 s t ∧ KeepsAllBut [.mem] s t

/-- `LD [I], Vx` (R125): `V[0]` to `V[x]`, inclusive, at `I` upwards, each address reduced; `I` and every other byte unchanged. -/
def Obligations.BlockStoreCopiesRegisters : Prop :=
  ∀ (x : Reg) (s : State), decodeWord (0xF#4 ++ regBits x ++ 0x55#8) = .ok (.ldMemVx x) ∧
    ∃ t, exec (.ldMemVx x) s = .next t ∧ (∀ j : Reg, j ≤ x → t.readByte (s.i.toNat + j.val) = s.readReg j) ∧
      KeepsBytesBut s.i.toNat (x.val + 1) s t ∧ KeepsAllBut [.mem] s t

/-- `LD Vx, [I]` (R126): `V[0]` to `V[x]`, inclusive, from `I` upwards, each address reduced; the registers above `x` and `I` unchanged. -/
def Obligations.BlockLoadCopiesMemory : Prop :=
  ∀ (x : Reg) (s : State), decodeWord (0xF#4 ++ regBits x ++ 0x65#8) = .ok (.ldVxMem x) ∧
    ∃ t, exec (.ldVxMem x) s = .next t ∧ (∀ j : Reg, j ≤ x → t.readReg j = s.readByte (s.i.toNat + j.val)) ∧
      (∀ j : Reg, x < j → t.readReg j = s.readReg j) ∧ KeepsAllBut [.regs] s t

/-- A block store, then any change of the registers and of memory outside the stored bytes, then a block load with the same `I` restores
`V[0]` to `V[x]` (R125, R126). -/
def Obligations.BlockStoreThenLoadRoundTrips : Prop :=
  ∀ (x : Reg) (s t u v : State), exec (.ldMemVx x) s = .next t → u.i = s.i →
    (∀ j : Reg, j ≤ x → u.readByte (s.i.toNat + j.val) = t.readByte (s.i.toNat + j.val)) →
    exec (.ldVxMem x) u = .next v → ∀ j : Reg, j ≤ x → v.readReg j = s.readReg j

/-- A word stored by `LD [I], Vx` is what a fetch at its address reads, with no intervening action (R53). -/
def Obligations.StoredBytesAreFetched : Prop :=
  ∀ (x j : Reg) (s t : State), exec (.ldMemVx x) s = .next t → j < x →
    { t with pc := s.i + BitVec.ofNat 16 j.val }.fetchWord = (s.readReg j ++ s.readReg (j + 1) : Word)

/-- An instruction placed where the next step fetches is what the next step executes, on the state with `pc` advanced. For a halted or
waiting core this holds only because the model's `withFetchWord` clears `fault` and `wait` (log entry 5, DESIGN CHOICE): the hardware
would fetch nothing (R63). That placing stands for a load, and the layout of the word, are log entries 4 and 17, DEDUCED. -/
def Obligations.PlacedWordIsExecuted : Prop :=
  ∀ (s : State) (i : Instr),
    step (s.withFetchWord 16 (encode i).toNat) = exec i { s.withFetchWord 16 (encode i).toNat with pc := s.pc + 2 }

/-! ### Display -/

/-- `CLS` (R131). -/
def Obligations.ClearTurnsEveryCellOff : Prop :=
  decodeWord 0x00E0 = .ok .cls ∧ ∀ s : State,
    ∃ t, exec .cls s = .next t ∧ (∀ yy xx, t.cell yy xx = false) ∧ KeepsAllBut [.display] s t

/-- `DRW Vx, Vy, n` (R132): exactly the cells a set bit of the sprite falls on are toggled; `V[0xF]` is 1 when one of them was on, else 0;
`n = 0` draws nothing and clears the flag; the origin is the old `V[0xF]` when `x` or `y` names it. -/
def Obligations.DrawTogglesCoveredCells : Prop :=
  ∀ (x y : Reg) (n : Nibble) (s : State), decodeWord (0xD#4 ++ regBits x ++ regBits y ++ n) = .ok (.drw x y n) ∧
    ∃ t, exec (.drw x y n) s = .next t ∧
      (∀ yy xx, s.covers x y n yy xx → t.cell yy xx = !s.cell yy xx) ∧
      (∀ yy xx, ¬ s.covers x y n yy xx → t.cell yy xx = s.cell yy xx) ∧
      ((∃ yy xx, s.covers x y n yy xx ∧ s.cell yy xx = true) → t.readReg 15 = 1) ∧
      ((∀ yy xx, s.covers x y n yy xx → s.cell yy xx = false) → t.readReg 15 = 0) ∧
      KeepsRegsBut [15] s t ∧ KeepsAllBut [.regs, .display] s t

/-- Drawing the identical sprite at the identical location again restores every cell; the second draw reports a collision exactly when
the first turned a cell on (R132 (g)). The registers are put back between the draws so that the location is the same for every `x` and
`y`, `0xF` included. -/
def Obligations.DrawTwiceRestoresDisplay : Prop :=
  ∀ (x y : Reg) (n : Nibble) (s t : State), exec (.drw x y n) s = .next t →
    ∃ u, exec (.drw x y n) { t with v := s.v } = .next u ∧ (∀ yy xx, u.cell yy xx = s.cell yy xx) ∧
      (u.readReg 15 = 1 ↔ ∃ yy xx, s.covers x y n yy xx ∧ s.cell yy xx = false)

/-! ### Timers and keys -/

/-- `LD Vx, DT`, `LD DT, Vx`, `LD ST, Vx` (R140, R141, R142). -/
def Obligations.TimerInstructionsCopy : Prop :=
  ∀ (x : Reg) (s : State),
    (decodeWord (0xF#4 ++ regBits x ++ 0x07#8) = .ok (.ldVxDt x) ∧ ∃ t, exec (.ldVxDt x) s = .next t ∧
      t.readReg x = s.dt ∧ KeepsRegsBut [x] s t ∧ KeepsAllBut [.regs] s t) ∧
    (decodeWord (0xF#4 ++ regBits x ++ 0x15#8) = .ok (.ldDtVx x) ∧ ∃ t, exec (.ldDtVx x) s = .next t ∧
      t.dt = s.readReg x ∧ KeepsAllBut [.delay] s t) ∧
    (decodeWord (0xF#4 ++ regBits x ++ 0x18#8) = .ok (.ldStVx x) ∧ ∃ t, exec (.ldStVx x) s = .next t ∧
      t.st = s.readReg x ∧ (soundActive t = true ↔ s.readReg x ≠ 0) ∧ KeepsAllBut [.sound] s t)

/-- `SKP` and `SKNP` (R143, R144): the whole register value is the key index, and an index of 16 or more is not pressed. -/
def Obligations.KeySkipsTestWholeRegister : Prop :=
  ∀ (x : Reg) (s : State),
    (decodeWord (0xE#4 ++ regBits x ++ 0x9E#8) = .ok (.skp x) ∧ ∃ t, exec (.skp x) s = .next t ∧ KeepsAllBut [.pc] s t ∧
      t.pc = (if ∃ k : Fin 16, k.val = (s.readReg x).toNat ∧ s.key.get k = true then s.pc + 2 else s.pc)) ∧
    (decodeWord (0xE#4 ++ regBits x ++ 0xA1#8) = .ok (.sknp x) ∧ ∃ t, exec (.sknp x) s = .next t ∧ KeepsAllBut [.pc] s t ∧
      t.pc = (if ∃ k : Fin 16, k.val = (s.readReg x).toNat ∧ s.key.get k = true then s.pc else s.pc + 2))

/-- `LD Vx, K` (R145): arms the wait with the keys as they are, and writes no register. -/
def Obligations.KeyWaitInstructionArms : Prop :=
  ∀ (x : Reg) (s : State), decodeWord (0xF#4 ++ regBits x ++ 0x0A#8) = .ok (.ldVxK x) ∧
    ∃ t, exec (.ldVxK x) s = .next t ∧ t.wait = true ∧ t.wreg = x ∧ t.kprev = s.key ∧ KeepsAllBut [.keyWait] s t

/-- A key already held when `LD Vx, K` executes does not end the wait: with no key set in between, the first poll finds no transition
(R145, R146). -/
def Obligations.HeldKeyDoesNotEndWait : Prop :=
  ∀ (x : Reg) (s : State), s.executes (.ldVxK x) →
    ∃ t, runEvents [.cycle, .cycle] s = .next t ∧ t.wait = true ∧ t.pc = s.pc + 2 ∧ ∀ r, t.readReg r = s.readReg r

/-- While no other key qualifies, pressing a key that was released at the last sample ends the wait in the next cycle: its index is in the
target register, `pc` has not moved (R146, R164). -/
def Obligations.PressedKeyEndsWait : Prop :=
  ∀ (s : State) (k : Fin 16), s.fault = none → s.wait = true → s.kprev.get k = false →
    (∀ j : Fin 16, j ≠ k → ¬ (s.key.get j = true ∧ s.kprev.get j = false)) →
    ∃ t, runEvents [.setKey k.val true, .cycle] s = .next t ∧ t.wait = false ∧ (t.readReg s.wreg).toNat = k.val ∧ t.pc = s.pc

/-! ### Reset and the host's operations -/

/-- After `Reset()` every piece of state is at the value of R27's table: the state a machine is constructed in, and the one `Reset()` leaves
on a machine in any state, halted, waiting or loaded, all of whose state it discards. `draws`, the model's own (log entry 1), is left out. -/
def Obligations.ResetStateIsTheSpecs : Prop :=
  font.length = 80 ∧ State.reset.holdsResetTable ∧
    ∀ s : State, runEvents [.reset] s = .next (resetOp s) ∧ (resetOp s).holdsResetTable

/-- `Load` (R54, R55): an image of at most 3584 bytes stands at 0x200 and nothing else changes; a longer one is rejected whole. -/
def Obligations.LoadCopiesOrRejectsWhole : Prop :=
  ∀ (bytes : List Byte) (s : State),
    (bytes.length ≤ 3584 →
      (load bytes s).1 = .ok ∧ (∀ j (h : j < bytes.length), (load bytes s).2.readByte (0x200 + j) = bytes[j]) ∧
      KeepsBytesBut 0x200 bytes.length s (load bytes s).2 ∧ KeepsAllBut [.mem] s (load bytes s).2) ∧
    (3584 < bytes.length → load bytes s = (.romTooLarge bytes.length, s))

/-- After `n` ticks in a row each timer has gone down by `n`, floored at 0, each from its own value, and nothing else has changed; a
halted or waiting core's timers too (R163). -/
def Obligations.TicksCountDownToZero : Prop :=
  ∀ (n : Nat) (s : State), ∃ t, runEvents (List.replicate n .tick) s = .next t ∧ t.dt.toNat = s.dt.toNat - n ∧
    t.st.toNat = s.st.toNat - n ∧ KeepsAllBut [.delay, .sound] s t

/-- `SetKey` (R164): the key of an index below 16 takes the given state, every other key and all else is kept; an index of 16 or more is
ignored. -/
def Obligations.SetKeyWritesOneKey : Prop :=
  ∀ (k : Nat) (p : Bool) (s : State), KeepsAllBut [.keys] s (setKey k p s) ∧
    (∀ j : Fin 16, (setKey k p s).key.get j = if j.val = k then p else s.key.get j) ∧ (16 ≤ k → setKey k p s = s)

/-- The read-outs (R165, R166, R167): 2048 cells with `(xx, yy)` at index `64*yy + xx`; sound exactly when `ST > 0`; the latch. -/
def Obligations.ReadOutsReportState : Prop :=
  ∀ s : State, (readDisplay s).length = 2048 ∧
    (∀ (yy : Fin 32) (xx : Fin 64), (readDisplay s)[64 * yy.val + xx.val]? = some (s.cell yy xx)) ∧
    (soundActive s = true ↔ s.st.toNat > 0) ∧ readFault s = s.fault

/-! ### What a program cannot observe -/

/-- Bits 15 to 12 of `I` are unobservable: two states that differ only in them go on differing only in them (R13, R41). -/
def Obligations.HighIndexBitsAreUnobservable : Prop :=
  ∀ s s' t t' : State, SameButHighIndexBits s s' → step s = .next t → step s' = .next t' → SameButHighIndexBits t t'

/-- Dead stack cells are unobservable: two states that differ only in cells at or above `sp` go on differing only there (R15). -/
def Obligations.DeadStackCellsAreUnobservable : Prop :=
  ∀ s s' t t' : State, SameButDeadStack s s' → step s = .next t → step s' = .next t' → SameButDeadStack t t'
end

