-- ==== Sys2Proof/Laws/Decode.lean ====
section
/-! SUPPORT. Fields of words as numbers, and fields of words put together from fields: what decoding and encoding rest on. -/

namespace Sys2Proof

/-! ### Fields as numbers -/

theorem toNat_fieldC (op : Word) : (fieldC op).toNat = op.toNat / 4096 % 16 := by
  simp [fieldC, BitVec.extractLsb'_toNat, Nat.shiftRight_eq_div_pow]

theorem toNat_fieldX (op : Word) : (fieldX op).toNat = op.toNat / 256 % 16 := by
  simp [fieldX, BitVec.extractLsb'_toNat, Nat.shiftRight_eq_div_pow]

theorem toNat_fieldY (op : Word) : (fieldY op).toNat = op.toNat / 16 % 16 := by
  simp [fieldY, BitVec.extractLsb'_toNat, Nat.shiftRight_eq_div_pow]

theorem toNat_fieldN (op : Word) : (fieldN op).toNat = op.toNat % 16 := by
  simp [fieldN, BitVec.extractLsb'_toNat]

theorem toNat_fieldNN (op : Word) : (fieldNN op).toNat = op.toNat % 256 := by
  simp [fieldNN, BitVec.extractLsb'_toNat]

theorem toNat_fieldNNN (op : Word) : (fieldNNN op).toNat = op.toNat % 4096 := by
  simp [fieldNNN, BitVec.extractLsb'_toNat]

theorem toNat_highByte (op : Word) : (highByte op).toNat = op.toNat / 256 := by
  have := op.isLt
  simp [highByte, BitVec.extractLsb'_toNat, Nat.shiftRight_eq_div_pow]
  omega

theorem toNat_lowByte (op : Word) : (lowByte op).toNat = op.toNat % 256 := by
  simp [lowByte, BitVec.extractLsb'_toNat]

/-! ### Words from fields -/

theorem toNat_nibbles (c x y n : Nibble) :
    BitVec.toNat (c ++ x ++ y ++ n : Word) = c.toNat * 4096 + x.toNat * 256 + y.toNat * 16 + n.toNat := by
  have := x.isLt; have := y.isLt; have := n.isLt
  simp only [BitVec.toNat_append]
  rw [← Nat.shiftLeft_add_eq_or_of_lt (by omega), ← Nat.shiftLeft_add_eq_or_of_lt (by omega),
    ← Nat.shiftLeft_add_eq_or_of_lt (by omega)]
  simp only [Nat.shiftLeft_eq]
  omega

theorem toNat_class_reg_byte (c x : Nibble) (nn : Byte) :
    BitVec.toNat (c ++ x ++ nn : Word) = c.toNat * 4096 + x.toNat * 256 + nn.toNat := by
  have := x.isLt; have := nn.isLt
  simp only [BitVec.toNat_append]
  rw [← Nat.shiftLeft_add_eq_or_of_lt (by omega), ← Nat.shiftLeft_add_eq_or_of_lt (by omega)]
  simp only [Nat.shiftLeft_eq]
  omega

theorem toNat_class_addr (c : Nibble) (nnn : Addr) :
    BitVec.toNat (c ++ nnn : Word) = c.toNat * 4096 + nnn.toNat := by
  have := nnn.isLt
  simp only [BitVec.toNat_append]
  rw [← Nat.shiftLeft_add_eq_or_of_lt (by omega)]
  simp only [Nat.shiftLeft_eq]

theorem toNat_wordOfBytes (hi lo : Byte) : (wordOfBytes hi lo).toNat = hi.toNat * 256 + lo.toNat := by
  have := lo.isLt
  unfold wordOfBytes
  simp only [BitVec.toNat_append]
  rw [← Nat.shiftLeft_add_eq_or_of_lt (by omega)]
  simp only [Nat.shiftLeft_eq]

/-- Two bytes put together are the word they came from. -/
@[simp] theorem wordOfBytes_high_low (op : Word) : wordOfBytes (highByte op) (lowByte op) = op := by
  apply BitVec.eq_of_toNat_eq
  rw [toNat_wordOfBytes, toNat_highByte, toNat_lowByte]
  omega

/-! ### Fields of words from fields -/

@[simp] theorem regOf_regBits (r : Reg) : regOf (regBits r) = r := rfl

@[simp] theorem regBits_regOf (f : Nibble) : regBits (regOf f) = f := rfl

@[simp] theorem fieldC_nibbles (c x y n : Nibble) : fieldC (c ++ x ++ y ++ n) = c := by
  have := c.isLt; have := x.isLt; have := y.isLt; have := n.isLt
  apply BitVec.eq_of_toNat_eq; rw [toNat_fieldC, toNat_nibbles]; omega

@[simp] theorem fieldX_nibbles (c x y n : Nibble) : fieldX (c ++ x ++ y ++ n) = x := by
  have := x.isLt; have := y.isLt; have := n.isLt
  apply BitVec.eq_of_toNat_eq; rw [toNat_fieldX, toNat_nibbles]; omega

@[simp] theorem fieldY_nibbles (c x y n : Nibble) : fieldY (c ++ x ++ y ++ n) = y := by
  have := y.isLt; have := n.isLt
  apply BitVec.eq_of_toNat_eq; rw [toNat_fieldY, toNat_nibbles]; omega

@[simp] theorem fieldN_nibbles (c x y n : Nibble) : fieldN (c ++ x ++ y ++ n) = n := by
  have := n.isLt
  apply BitVec.eq_of_toNat_eq; rw [toNat_fieldN, toNat_nibbles]; omega

@[simp] theorem fieldC_class_reg_byte (c x : Nibble) (nn : Byte) : fieldC (c ++ x ++ nn) = c := by
  have := c.isLt; have := x.isLt; have := nn.isLt
  apply BitVec.eq_of_toNat_eq; rw [toNat_fieldC, toNat_class_reg_byte]; omega

@[simp] theorem fieldX_class_reg_byte (c x : Nibble) (nn : Byte) : fieldX (c ++ x ++ nn) = x := by
  have := x.isLt; have := nn.isLt
  apply BitVec.eq_of_toNat_eq; rw [toNat_fieldX, toNat_class_reg_byte]; omega

@[simp] theorem fieldNN_class_reg_byte (c x : Nibble) (nn : Byte) : fieldNN (c ++ x ++ nn) = nn := by
  have := nn.isLt
  apply BitVec.eq_of_toNat_eq; rw [toNat_fieldNN, toNat_class_reg_byte]; omega

@[simp] theorem fieldC_class_addr (c : Nibble) (nnn : Addr) : fieldC (c ++ nnn) = c := by
  have := c.isLt; have := nnn.isLt
  apply BitVec.eq_of_toNat_eq; rw [toNat_fieldC, toNat_class_addr]; omega

@[simp] theorem fieldNNN_class_addr (c : Nibble) (nnn : Addr) : fieldNNN (c ++ nnn) = nnn := by
  have := nnn.isLt
  apply BitVec.eq_of_toNat_eq; rw [toNat_fieldNNN, toNat_class_addr]; omega

/-- A word is its four nibbles. -/
theorem eq_nibbles (op : Word) : op = (fieldC op ++ fieldX op ++ fieldY op ++ fieldN op : Word) := by
  have := op.isLt
  apply BitVec.eq_of_toNat_eq
  rw [toNat_nibbles, toNat_fieldC, toNat_fieldX, toNat_fieldY, toNat_fieldN]
  omega

/-- A word is its class, its first register field and its low byte. -/
theorem eq_class_reg_byte (op : Word) : op = (fieldC op ++ fieldX op ++ fieldNN op : Word) := by
  have := op.isLt
  apply BitVec.eq_of_toNat_eq
  rw [toNat_class_reg_byte, toNat_fieldC, toNat_fieldX, toNat_fieldNN]
  omega

/-- A word is its class and its address field. -/
theorem eq_class_addr (op : Word) : op = (fieldC op ++ fieldNNN op : Word) := by
  have := op.isLt
  apply BitVec.eq_of_toNat_eq
  rw [toNat_class_addr, toNat_fieldC, toNat_fieldNNN]
  omega

/-- The decoder rejects a word only as unrecognized, naming it (R65). -/
theorem decodeWord_error {op : Word} {e : DecodeError} (h : decodeWord op = .error e) : e = .unrecognizedOpcode op := by
  unfold decodeWord decodeClass0 decodeClass8 decodeClassE decodeClassF at h
  repeat' split at h
  all_goals first
    | exact (Except.error.inj h).symm
    | exact absurd h (by simp)

theorem unrecognized_iff (op : Word) : unrecognized op = true ↔ decodeWord op = .error (.unrecognizedOpcode op) := by
  unfold unrecognized
  constructor
  · intro h
    cases hd : decodeWord op with
    | ok i => rw [hd] at h; cases h
    | error e => rw [decodeWord_error hd]
  · intro h; rw [h]

end Sys2Proof
end

