-- ==== Sys2Proof/Laws/State.lean ====
section
/-! SUPPORT. One lemma per field per update, true by rfl, so that no proof unfolds a record update. -/

namespace Sys2Proof.Machine

/-! ### `writeReg` -/

@[simp] theorem State.writeReg_mem (s : State) (r : Reg) (b : Byte) : (s.writeReg r b).mem = s.mem := rfl
@[simp] theorem State.writeReg_v (s : State) (r : Reg) (b : Byte) : (s.writeReg r b).v = s.v.set r.val b r.isLt := rfl
@[simp] theorem State.writeReg_i (s : State) (r : Reg) (b : Byte) : (s.writeReg r b).i = s.i := rfl
@[simp] theorem State.writeReg_pc (s : State) (r : Reg) (b : Byte) : (s.writeReg r b).pc = s.pc := rfl
@[simp] theorem State.writeReg_stack (s : State) (r : Reg) (b : Byte) : (s.writeReg r b).stack = s.stack := rfl
@[simp] theorem State.writeReg_sp (s : State) (r : Reg) (b : Byte) : (s.writeReg r b).sp = s.sp := rfl
@[simp] theorem State.writeReg_fb (s : State) (r : Reg) (b : Byte) : (s.writeReg r b).fb = s.fb := rfl
@[simp] theorem State.writeReg_dt (s : State) (r : Reg) (b : Byte) : (s.writeReg r b).dt = s.dt := rfl
@[simp] theorem State.writeReg_st (s : State) (r : Reg) (b : Byte) : (s.writeReg r b).st = s.st := rfl
@[simp] theorem State.writeReg_key (s : State) (r : Reg) (b : Byte) : (s.writeReg r b).key = s.key := rfl
@[simp] theorem State.writeReg_wait (s : State) (r : Reg) (b : Byte) : (s.writeReg r b).wait = s.wait := rfl
@[simp] theorem State.writeReg_wreg (s : State) (r : Reg) (b : Byte) : (s.writeReg r b).wreg = s.wreg := rfl
@[simp] theorem State.writeReg_kprev (s : State) (r : Reg) (b : Byte) : (s.writeReg r b).kprev = s.kprev := rfl
@[simp] theorem State.writeReg_fault (s : State) (r : Reg) (b : Byte) : (s.writeReg r b).fault = s.fault := rfl
@[simp] theorem State.writeReg_draws (s : State) (r : Reg) (b : Byte) : (s.writeReg r b).draws = s.draws := rfl

/-! ### `setIndex` -/

@[simp] theorem State.setIndex_mem (s : State) (w : Word) : (s.setIndex w).mem = s.mem := rfl
@[simp] theorem State.setIndex_v (s : State) (w : Word) : (s.setIndex w).v = s.v := rfl
@[simp] theorem State.setIndex_i (s : State) (w : Word) : (s.setIndex w).i = w := rfl
@[simp] theorem State.setIndex_pc (s : State) (w : Word) : (s.setIndex w).pc = s.pc := rfl
@[simp] theorem State.setIndex_stack (s : State) (w : Word) : (s.setIndex w).stack = s.stack := rfl
@[simp] theorem State.setIndex_sp (s : State) (w : Word) : (s.setIndex w).sp = s.sp := rfl
@[simp] theorem State.setIndex_fb (s : State) (w : Word) : (s.setIndex w).fb = s.fb := rfl
@[simp] theorem State.setIndex_dt (s : State) (w : Word) : (s.setIndex w).dt = s.dt := rfl
@[simp] theorem State.setIndex_st (s : State) (w : Word) : (s.setIndex w).st = s.st := rfl
@[simp] theorem State.setIndex_key (s : State) (w : Word) : (s.setIndex w).key = s.key := rfl
@[simp] theorem State.setIndex_wait (s : State) (w : Word) : (s.setIndex w).wait = s.wait := rfl
@[simp] theorem State.setIndex_wreg (s : State) (w : Word) : (s.setIndex w).wreg = s.wreg := rfl
@[simp] theorem State.setIndex_kprev (s : State) (w : Word) : (s.setIndex w).kprev = s.kprev := rfl
@[simp] theorem State.setIndex_fault (s : State) (w : Word) : (s.setIndex w).fault = s.fault := rfl
@[simp] theorem State.setIndex_draws (s : State) (w : Word) : (s.setIndex w).draws = s.draws := rfl

/-! ### `setPc` -/

@[simp] theorem State.setPc_mem (s : State) (w : Word) : (s.setPc w).mem = s.mem := rfl
@[simp] theorem State.setPc_v (s : State) (w : Word) : (s.setPc w).v = s.v := rfl
@[simp] theorem State.setPc_i (s : State) (w : Word) : (s.setPc w).i = s.i := rfl
@[simp] theorem State.setPc_pc (s : State) (w : Word) : (s.setPc w).pc = w := rfl
@[simp] theorem State.setPc_stack (s : State) (w : Word) : (s.setPc w).stack = s.stack := rfl
@[simp] theorem State.setPc_sp (s : State) (w : Word) : (s.setPc w).sp = s.sp := rfl
@[simp] theorem State.setPc_fb (s : State) (w : Word) : (s.setPc w).fb = s.fb := rfl
@[simp] theorem State.setPc_dt (s : State) (w : Word) : (s.setPc w).dt = s.dt := rfl
@[simp] theorem State.setPc_st (s : State) (w : Word) : (s.setPc w).st = s.st := rfl
@[simp] theorem State.setPc_key (s : State) (w : Word) : (s.setPc w).key = s.key := rfl
@[simp] theorem State.setPc_wait (s : State) (w : Word) : (s.setPc w).wait = s.wait := rfl
@[simp] theorem State.setPc_wreg (s : State) (w : Word) : (s.setPc w).wreg = s.wreg := rfl
@[simp] theorem State.setPc_kprev (s : State) (w : Word) : (s.setPc w).kprev = s.kprev := rfl
@[simp] theorem State.setPc_fault (s : State) (w : Word) : (s.setPc w).fault = s.fault := rfl
@[simp] theorem State.setPc_draws (s : State) (w : Word) : (s.setPc w).draws = s.draws := rfl

/-! ### `setDelay` -/

@[simp] theorem State.setDelay_mem (s : State) (b : Byte) : (s.setDelay b).mem = s.mem := rfl
@[simp] theorem State.setDelay_v (s : State) (b : Byte) : (s.setDelay b).v = s.v := rfl
@[simp] theorem State.setDelay_i (s : State) (b : Byte) : (s.setDelay b).i = s.i := rfl
@[simp] theorem State.setDelay_pc (s : State) (b : Byte) : (s.setDelay b).pc = s.pc := rfl
@[simp] theorem State.setDelay_stack (s : State) (b : Byte) : (s.setDelay b).stack = s.stack := rfl
@[simp] theorem State.setDelay_sp (s : State) (b : Byte) : (s.setDelay b).sp = s.sp := rfl
@[simp] theorem State.setDelay_fb (s : State) (b : Byte) : (s.setDelay b).fb = s.fb := rfl
@[simp] theorem State.setDelay_dt (s : State) (b : Byte) : (s.setDelay b).dt = b := rfl
@[simp] theorem State.setDelay_st (s : State) (b : Byte) : (s.setDelay b).st = s.st := rfl
@[simp] theorem State.setDelay_key (s : State) (b : Byte) : (s.setDelay b).key = s.key := rfl
@[simp] theorem State.setDelay_wait (s : State) (b : Byte) : (s.setDelay b).wait = s.wait := rfl
@[simp] theorem State.setDelay_wreg (s : State) (b : Byte) : (s.setDelay b).wreg = s.wreg := rfl
@[simp] theorem State.setDelay_kprev (s : State) (b : Byte) : (s.setDelay b).kprev = s.kprev := rfl
@[simp] theorem State.setDelay_fault (s : State) (b : Byte) : (s.setDelay b).fault = s.fault := rfl
@[simp] theorem State.setDelay_draws (s : State) (b : Byte) : (s.setDelay b).draws = s.draws := rfl

/-! ### `setSound` -/

@[simp] theorem State.setSound_mem (s : State) (b : Byte) : (s.setSound b).mem = s.mem := rfl
@[simp] theorem State.setSound_v (s : State) (b : Byte) : (s.setSound b).v = s.v := rfl
@[simp] theorem State.setSound_i (s : State) (b : Byte) : (s.setSound b).i = s.i := rfl
@[simp] theorem State.setSound_pc (s : State) (b : Byte) : (s.setSound b).pc = s.pc := rfl
@[simp] theorem State.setSound_stack (s : State) (b : Byte) : (s.setSound b).stack = s.stack := rfl
@[simp] theorem State.setSound_sp (s : State) (b : Byte) : (s.setSound b).sp = s.sp := rfl
@[simp] theorem State.setSound_fb (s : State) (b : Byte) : (s.setSound b).fb = s.fb := rfl
@[simp] theorem State.setSound_dt (s : State) (b : Byte) : (s.setSound b).dt = s.dt := rfl
@[simp] theorem State.setSound_st (s : State) (b : Byte) : (s.setSound b).st = b := rfl
@[simp] theorem State.setSound_key (s : State) (b : Byte) : (s.setSound b).key = s.key := rfl
@[simp] theorem State.setSound_wait (s : State) (b : Byte) : (s.setSound b).wait = s.wait := rfl
@[simp] theorem State.setSound_wreg (s : State) (b : Byte) : (s.setSound b).wreg = s.wreg := rfl
@[simp] theorem State.setSound_kprev (s : State) (b : Byte) : (s.setSound b).kprev = s.kprev := rfl
@[simp] theorem State.setSound_fault (s : State) (b : Byte) : (s.setSound b).fault = s.fault := rfl
@[simp] theorem State.setSound_draws (s : State) (b : Byte) : (s.setSound b).draws = s.draws := rfl

/-! ### `skip` -/

@[simp] theorem State.skip_mem (s : State) : (s.skip).mem = s.mem := rfl
@[simp] theorem State.skip_v (s : State) : (s.skip).v = s.v := rfl
@[simp] theorem State.skip_i (s : State) : (s.skip).i = s.i := rfl
@[simp] theorem State.skip_pc (s : State) : (s.skip).pc = s.pc + 2 := rfl
@[simp] theorem State.skip_stack (s : State) : (s.skip).stack = s.stack := rfl
@[simp] theorem State.skip_sp (s : State) : (s.skip).sp = s.sp := rfl
@[simp] theorem State.skip_fb (s : State) : (s.skip).fb = s.fb := rfl
@[simp] theorem State.skip_dt (s : State) : (s.skip).dt = s.dt := rfl
@[simp] theorem State.skip_st (s : State) : (s.skip).st = s.st := rfl
@[simp] theorem State.skip_key (s : State) : (s.skip).key = s.key := rfl
@[simp] theorem State.skip_wait (s : State) : (s.skip).wait = s.wait := rfl
@[simp] theorem State.skip_wreg (s : State) : (s.skip).wreg = s.wreg := rfl
@[simp] theorem State.skip_kprev (s : State) : (s.skip).kprev = s.kprev := rfl
@[simp] theorem State.skip_fault (s : State) : (s.skip).fault = s.fault := rfl
@[simp] theorem State.skip_draws (s : State) : (s.skip).draws = s.draws := rfl

/-! ### `writeByte` -/

@[simp] theorem State.writeByte_mem (s : State) (a : Nat) (b : Byte) : (s.writeByte a b).mem = s.mem.write (reduce a) b := rfl
@[simp] theorem State.writeByte_v (s : State) (a : Nat) (b : Byte) : (s.writeByte a b).v = s.v := rfl
@[simp] theorem State.writeByte_i (s : State) (a : Nat) (b : Byte) : (s.writeByte a b).i = s.i := rfl
@[simp] theorem State.writeByte_pc (s : State) (a : Nat) (b : Byte) : (s.writeByte a b).pc = s.pc := rfl
@[simp] theorem State.writeByte_stack (s : State) (a : Nat) (b : Byte) : (s.writeByte a b).stack = s.stack := rfl
@[simp] theorem State.writeByte_sp (s : State) (a : Nat) (b : Byte) : (s.writeByte a b).sp = s.sp := rfl
@[simp] theorem State.writeByte_fb (s : State) (a : Nat) (b : Byte) : (s.writeByte a b).fb = s.fb := rfl
@[simp] theorem State.writeByte_dt (s : State) (a : Nat) (b : Byte) : (s.writeByte a b).dt = s.dt := rfl
@[simp] theorem State.writeByte_st (s : State) (a : Nat) (b : Byte) : (s.writeByte a b).st = s.st := rfl
@[simp] theorem State.writeByte_key (s : State) (a : Nat) (b : Byte) : (s.writeByte a b).key = s.key := rfl
@[simp] theorem State.writeByte_wait (s : State) (a : Nat) (b : Byte) : (s.writeByte a b).wait = s.wait := rfl
@[simp] theorem State.writeByte_wreg (s : State) (a : Nat) (b : Byte) : (s.writeByte a b).wreg = s.wreg := rfl
@[simp] theorem State.writeByte_kprev (s : State) (a : Nat) (b : Byte) : (s.writeByte a b).kprev = s.kprev := rfl
@[simp] theorem State.writeByte_fault (s : State) (a : Nat) (b : Byte) : (s.writeByte a b).fault = s.fault := rfl
@[simp] theorem State.writeByte_draws (s : State) (a : Nat) (b : Byte) : (s.writeByte a b).draws = s.draws := rfl

/-! ### `setCell` -/

@[simp] theorem State.setCell_mem (s : State) (yy : Fin 32) (xx : Fin 64) (b : Bool) : (s.setCell yy xx b).mem = s.mem := rfl
@[simp] theorem State.setCell_v (s : State) (yy : Fin 32) (xx : Fin 64) (b : Bool) : (s.setCell yy xx b).v = s.v := rfl
@[simp] theorem State.setCell_i (s : State) (yy : Fin 32) (xx : Fin 64) (b : Bool) : (s.setCell yy xx b).i = s.i := rfl
@[simp] theorem State.setCell_pc (s : State) (yy : Fin 32) (xx : Fin 64) (b : Bool) : (s.setCell yy xx b).pc = s.pc := rfl
@[simp] theorem State.setCell_stack (s : State) (yy : Fin 32) (xx : Fin 64) (b : Bool) : (s.setCell yy xx b).stack = s.stack := rfl
@[simp] theorem State.setCell_sp (s : State) (yy : Fin 32) (xx : Fin 64) (b : Bool) : (s.setCell yy xx b).sp = s.sp := rfl
@[simp] theorem State.setCell_fb (s : State) (yy : Fin 32) (xx : Fin 64) (b : Bool) : (s.setCell yy xx b).fb = s.fb.set yy.val ((s.fb.get yy).set xx.val b xx.isLt) yy.isLt := rfl
@[simp] theorem State.setCell_dt (s : State) (yy : Fin 32) (xx : Fin 64) (b : Bool) : (s.setCell yy xx b).dt = s.dt := rfl
@[simp] theorem State.setCell_st (s : State) (yy : Fin 32) (xx : Fin 64) (b : Bool) : (s.setCell yy xx b).st = s.st := rfl
@[simp] theorem State.setCell_key (s : State) (yy : Fin 32) (xx : Fin 64) (b : Bool) : (s.setCell yy xx b).key = s.key := rfl
@[simp] theorem State.setCell_wait (s : State) (yy : Fin 32) (xx : Fin 64) (b : Bool) : (s.setCell yy xx b).wait = s.wait := rfl
@[simp] theorem State.setCell_wreg (s : State) (yy : Fin 32) (xx : Fin 64) (b : Bool) : (s.setCell yy xx b).wreg = s.wreg := rfl
@[simp] theorem State.setCell_kprev (s : State) (yy : Fin 32) (xx : Fin 64) (b : Bool) : (s.setCell yy xx b).kprev = s.kprev := rfl
@[simp] theorem State.setCell_fault (s : State) (yy : Fin 32) (xx : Fin 64) (b : Bool) : (s.setCell yy xx b).fault = s.fault := rfl
@[simp] theorem State.setCell_draws (s : State) (yy : Fin 32) (xx : Fin 64) (b : Bool) : (s.setCell yy xx b).draws = s.draws := rfl

/-! ### `clearDisplay` -/

@[simp] theorem State.clearDisplay_mem (s : State) : (s.clearDisplay).mem = s.mem := rfl
@[simp] theorem State.clearDisplay_v (s : State) : (s.clearDisplay).v = s.v := rfl
@[simp] theorem State.clearDisplay_i (s : State) : (s.clearDisplay).i = s.i := rfl
@[simp] theorem State.clearDisplay_pc (s : State) : (s.clearDisplay).pc = s.pc := rfl
@[simp] theorem State.clearDisplay_stack (s : State) : (s.clearDisplay).stack = s.stack := rfl
@[simp] theorem State.clearDisplay_sp (s : State) : (s.clearDisplay).sp = s.sp := rfl
@[simp] theorem State.clearDisplay_fb (s : State) : (s.clearDisplay).fb = .replicate 32 (.replicate 64 false) := rfl
@[simp] theorem State.clearDisplay_dt (s : State) : (s.clearDisplay).dt = s.dt := rfl
@[simp] theorem State.clearDisplay_st (s : State) : (s.clearDisplay).st = s.st := rfl
@[simp] theorem State.clearDisplay_key (s : State) : (s.clearDisplay).key = s.key := rfl
@[simp] theorem State.clearDisplay_wait (s : State) : (s.clearDisplay).wait = s.wait := rfl
@[simp] theorem State.clearDisplay_wreg (s : State) : (s.clearDisplay).wreg = s.wreg := rfl
@[simp] theorem State.clearDisplay_kprev (s : State) : (s.clearDisplay).kprev = s.kprev := rfl
@[simp] theorem State.clearDisplay_fault (s : State) : (s.clearDisplay).fault = s.fault := rfl
@[simp] theorem State.clearDisplay_draws (s : State) : (s.clearDisplay).draws = s.draws := rfl

/-! ### `armKeyWait` -/

@[simp] theorem State.armKeyWait_mem (s : State) (x : Reg) : (s.armKeyWait x).mem = s.mem := rfl
@[simp] theorem State.armKeyWait_v (s : State) (x : Reg) : (s.armKeyWait x).v = s.v := rfl
@[simp] theorem State.armKeyWait_i (s : State) (x : Reg) : (s.armKeyWait x).i = s.i := rfl
@[simp] theorem State.armKeyWait_pc (s : State) (x : Reg) : (s.armKeyWait x).pc = s.pc := rfl
@[simp] theorem State.armKeyWait_stack (s : State) (x : Reg) : (s.armKeyWait x).stack = s.stack := rfl
@[simp] theorem State.armKeyWait_sp (s : State) (x : Reg) : (s.armKeyWait x).sp = s.sp := rfl
@[simp] theorem State.armKeyWait_fb (s : State) (x : Reg) : (s.armKeyWait x).fb = s.fb := rfl
@[simp] theorem State.armKeyWait_dt (s : State) (x : Reg) : (s.armKeyWait x).dt = s.dt := rfl
@[simp] theorem State.armKeyWait_st (s : State) (x : Reg) : (s.armKeyWait x).st = s.st := rfl
@[simp] theorem State.armKeyWait_key (s : State) (x : Reg) : (s.armKeyWait x).key = s.key := rfl
@[simp] theorem State.armKeyWait_wait (s : State) (x : Reg) : (s.armKeyWait x).wait = true := rfl
@[simp] theorem State.armKeyWait_wreg (s : State) (x : Reg) : (s.armKeyWait x).wreg = x := rfl
@[simp] theorem State.armKeyWait_kprev (s : State) (x : Reg) : (s.armKeyWait x).kprev = s.key := rfl
@[simp] theorem State.armKeyWait_fault (s : State) (x : Reg) : (s.armKeyWait x).fault = s.fault := rfl
@[simp] theorem State.armKeyWait_draws (s : State) (x : Reg) : (s.armKeyWait x).draws = s.draws := rfl

/-! ### `endKeyWait` -/

@[simp] theorem State.endKeyWait_mem (s : State) (k : Nat) : (s.endKeyWait k).mem = s.mem := rfl
@[simp] theorem State.endKeyWait_v (s : State) (k : Nat) : (s.endKeyWait k).v = s.v.set s.wreg.val (BitVec.ofNat 8 k) s.wreg.isLt := rfl
@[simp] theorem State.endKeyWait_i (s : State) (k : Nat) : (s.endKeyWait k).i = s.i := rfl
@[simp] theorem State.endKeyWait_pc (s : State) (k : Nat) : (s.endKeyWait k).pc = s.pc := rfl
@[simp] theorem State.endKeyWait_stack (s : State) (k : Nat) : (s.endKeyWait k).stack = s.stack := rfl
@[simp] theorem State.endKeyWait_sp (s : State) (k : Nat) : (s.endKeyWait k).sp = s.sp := rfl
@[simp] theorem State.endKeyWait_fb (s : State) (k : Nat) : (s.endKeyWait k).fb = s.fb := rfl
@[simp] theorem State.endKeyWait_dt (s : State) (k : Nat) : (s.endKeyWait k).dt = s.dt := rfl
@[simp] theorem State.endKeyWait_st (s : State) (k : Nat) : (s.endKeyWait k).st = s.st := rfl
@[simp] theorem State.endKeyWait_key (s : State) (k : Nat) : (s.endKeyWait k).key = s.key := rfl
@[simp] theorem State.endKeyWait_wait (s : State) (k : Nat) : (s.endKeyWait k).wait = false := rfl
@[simp] theorem State.endKeyWait_wreg (s : State) (k : Nat) : (s.endKeyWait k).wreg = s.wreg := rfl
@[simp] theorem State.endKeyWait_kprev (s : State) (k : Nat) : (s.endKeyWait k).kprev = s.kprev := rfl
@[simp] theorem State.endKeyWait_fault (s : State) (k : Nat) : (s.endKeyWait k).fault = s.fault := rfl
@[simp] theorem State.endKeyWait_draws (s : State) (k : Nat) : (s.endKeyWait k).draws = s.draws := rfl

/-! ### `sampleKeys` -/

@[simp] theorem State.sampleKeys_mem (s : State) : (s.sampleKeys).mem = s.mem := rfl
@[simp] theorem State.sampleKeys_v (s : State) : (s.sampleKeys).v = s.v := rfl
@[simp] theorem State.sampleKeys_i (s : State) : (s.sampleKeys).i = s.i := rfl
@[simp] theorem State.sampleKeys_pc (s : State) : (s.sampleKeys).pc = s.pc := rfl
@[simp] theorem State.sampleKeys_stack (s : State) : (s.sampleKeys).stack = s.stack := rfl
@[simp] theorem State.sampleKeys_sp (s : State) : (s.sampleKeys).sp = s.sp := rfl
@[simp] theorem State.sampleKeys_fb (s : State) : (s.sampleKeys).fb = s.fb := rfl
@[simp] theorem State.sampleKeys_dt (s : State) : (s.sampleKeys).dt = s.dt := rfl
@[simp] theorem State.sampleKeys_st (s : State) : (s.sampleKeys).st = s.st := rfl
@[simp] theorem State.sampleKeys_key (s : State) : (s.sampleKeys).key = s.key := rfl
@[simp] theorem State.sampleKeys_wait (s : State) : (s.sampleKeys).wait = s.wait := rfl
@[simp] theorem State.sampleKeys_wreg (s : State) : (s.sampleKeys).wreg = s.wreg := rfl
@[simp] theorem State.sampleKeys_kprev (s : State) : (s.sampleKeys).kprev = s.key := rfl
@[simp] theorem State.sampleKeys_fault (s : State) : (s.sampleKeys).fault = s.fault := rfl
@[simp] theorem State.sampleKeys_draws (s : State) : (s.sampleKeys).draws = s.draws := rfl

/-! ### `countDraw` -/

@[simp] theorem State.countDraw_mem (s : State) : (s.countDraw).mem = s.mem := rfl
@[simp] theorem State.countDraw_v (s : State) : (s.countDraw).v = s.v := rfl
@[simp] theorem State.countDraw_i (s : State) : (s.countDraw).i = s.i := rfl
@[simp] theorem State.countDraw_pc (s : State) : (s.countDraw).pc = s.pc := rfl
@[simp] theorem State.countDraw_stack (s : State) : (s.countDraw).stack = s.stack := rfl
@[simp] theorem State.countDraw_sp (s : State) : (s.countDraw).sp = s.sp := rfl
@[simp] theorem State.countDraw_fb (s : State) : (s.countDraw).fb = s.fb := rfl
@[simp] theorem State.countDraw_dt (s : State) : (s.countDraw).dt = s.dt := rfl
@[simp] theorem State.countDraw_st (s : State) : (s.countDraw).st = s.st := rfl
@[simp] theorem State.countDraw_key (s : State) : (s.countDraw).key = s.key := rfl
@[simp] theorem State.countDraw_wait (s : State) : (s.countDraw).wait = s.wait := rfl
@[simp] theorem State.countDraw_wreg (s : State) : (s.countDraw).wreg = s.wreg := rfl
@[simp] theorem State.countDraw_kprev (s : State) : (s.countDraw).kprev = s.kprev := rfl
@[simp] theorem State.countDraw_fault (s : State) : (s.countDraw).fault = s.fault := rfl
@[simp] theorem State.countDraw_draws (s : State) : (s.countDraw).draws = s.draws + 1 := rfl

/-! ### `raise` -/

@[simp] theorem State.raise_mem (s : State) (e : FatalError) : (s.raise e).mem = s.mem := rfl
@[simp] theorem State.raise_v (s : State) (e : FatalError) : (s.raise e).v = s.v := rfl
@[simp] theorem State.raise_i (s : State) (e : FatalError) : (s.raise e).i = s.i := rfl
@[simp] theorem State.raise_pc (s : State) (e : FatalError) : (s.raise e).pc = s.pc := rfl
@[simp] theorem State.raise_stack (s : State) (e : FatalError) : (s.raise e).stack = s.stack := rfl
@[simp] theorem State.raise_sp (s : State) (e : FatalError) : (s.raise e).sp = s.sp := rfl
@[simp] theorem State.raise_fb (s : State) (e : FatalError) : (s.raise e).fb = s.fb := rfl
@[simp] theorem State.raise_dt (s : State) (e : FatalError) : (s.raise e).dt = s.dt := rfl
@[simp] theorem State.raise_st (s : State) (e : FatalError) : (s.raise e).st = s.st := rfl
@[simp] theorem State.raise_key (s : State) (e : FatalError) : (s.raise e).key = s.key := rfl
@[simp] theorem State.raise_wait (s : State) (e : FatalError) : (s.raise e).wait = s.wait := rfl
@[simp] theorem State.raise_wreg (s : State) (e : FatalError) : (s.raise e).wreg = s.wreg := rfl
@[simp] theorem State.raise_kprev (s : State) (e : FatalError) : (s.raise e).kprev = s.kprev := rfl
@[simp] theorem State.raise_fault (s : State) (e : FatalError) : (s.raise e).fault = some e := rfl
@[simp] theorem State.raise_draws (s : State) (e : FatalError) : (s.raise e).draws = s.draws := rfl

/-! ### `tick` -/

@[simp] theorem tick_mem (s : State) : (tick s).mem = s.mem := rfl
@[simp] theorem tick_v (s : State) : (tick s).v = s.v := rfl
@[simp] theorem tick_i (s : State) : (tick s).i = s.i := rfl
@[simp] theorem tick_pc (s : State) : (tick s).pc = s.pc := rfl
@[simp] theorem tick_stack (s : State) : (tick s).stack = s.stack := rfl
@[simp] theorem tick_sp (s : State) : (tick s).sp = s.sp := rfl
@[simp] theorem tick_fb (s : State) : (tick s).fb = s.fb := rfl
@[simp] theorem tick_dt (s : State) : (tick s).dt = countDown s.dt := rfl
@[simp] theorem tick_st (s : State) : (tick s).st = countDown s.st := rfl
@[simp] theorem tick_key (s : State) : (tick s).key = s.key := rfl
@[simp] theorem tick_wait (s : State) : (tick s).wait = s.wait := rfl
@[simp] theorem tick_wreg (s : State) : (tick s).wreg = s.wreg := rfl
@[simp] theorem tick_kprev (s : State) : (tick s).kprev = s.kprev := rfl
@[simp] theorem tick_fault (s : State) : (tick s).fault = s.fault := rfl
@[simp] theorem tick_draws (s : State) : (tick s).draws = s.draws := rfl

end Sys2Proof.Machine
end

