-- ==== Sys2Proof/Laws/Memory.lean ====
section
/-! SUPPORT. Memory: read after write, and every operation keeps the canonical form. -/

namespace Sys2Proof.Machine

@[simp] theorem Memory.read_nil (a : Nat) : Memory.read [] a = resetByte a := rfl

theorem Memory.read_cons (a' : Nat) (b : Byte) (rest : Memory) (a : Nat) :
    Memory.read ((a', b) :: rest) a = if a' = a then b else Memory.read rest a := rfl

theorem Memory.read_put (m : Memory) (a : Nat) (b : Byte) (k : Nat) :
    (m.put a b).read k = if k = a then b else m.read k := by
  induction m with
  | nil => simp only [Memory.put, Memory.read_cons, eq_comm]
  | cons c rest ih =>
    obtain ⟨a', b'⟩ := c
    simp only [Memory.put]
    split
    · simp only [Memory.read_cons, eq_comm]
    · split
      · next h => subst h; simp only [Memory.read_cons, eq_comm]; split <;> rfl
      · simp only [Memory.read_cons, ih]
        split <;> split <;> first | rfl | omega

theorem Memory.read_drop (m : Memory) (a k : Nat) :
    (m.drop a).read k = if k = a then resetByte a else m.read k := by
  induction m with
  | nil => simp only [Memory.drop, Memory.read_nil]; split <;> simp_all
  | cons c rest ih =>
    obtain ⟨a', b'⟩ := c
    simp only [Memory.drop]
    split
    · next h =>
      subst h
      rw [ih, Memory.read_cons]
      by_cases hk : k = a
      · rw [if_pos hk, if_pos hk]
      · rw [if_neg hk, if_neg hk, if_neg (Ne.symm hk)]
    · simp only [Memory.read_cons, ih]; split <;> split <;> first | rfl | omega

/-- Read after write: the value written at its own address, every other cell as before (R42). -/
theorem Memory.read_write (m : Memory) (a : Nat) (b : Byte) (k : Nat) :
    (m.write a b).read k = if k = a then b else m.read k := by
  unfold Memory.write
  split
  · next h => rw [Memory.read_drop, h]
  · exact Memory.read_put m a b k

/-! ### The canonical form -/

theorem Memory.wfFrom_mono {lo lo' : Nat} (h : lo' ≤ lo) {m : Memory} (hm : Memory.wfFrom lo m = true) :
    Memory.wfFrom lo' m = true := by
  cases m with
  | nil => rfl
  | cons c rest =>
    simp only [Memory.wfFrom, Bool.and_eq_true, decide_eq_true_eq] at hm ⊢
    exact ⟨⟨⟨by omega, hm.1.1.2⟩, hm.1.2⟩, hm.2⟩

theorem Memory.wfFrom_put {lo a : Nat} {b : Byte} {m : Memory} (hm : Memory.wfFrom lo m = true) (hlo : lo ≤ a)
    (ha : a < 4096) (hb : b ≠ resetByte a) : Memory.wfFrom lo (m.put a b) = true := by
  induction m generalizing lo with
  | nil => simp [Memory.put, Memory.wfFrom, hlo, ha, hb]
  | cons c rest ih =>
    obtain ⟨a', b'⟩ := c
    simp only [Memory.wfFrom, Bool.and_eq_true, decide_eq_true_eq, bne_iff_ne, Config.memSize] at hm
    obtain ⟨⟨⟨h1, h2⟩, h3⟩, h4⟩ := hm
    simp only [Memory.put]
    split
    · simp [Memory.wfFrom, hlo, ha, hb, h2, h3, h4]; omega
    · split
      · next h => subst h; simp [Memory.wfFrom, hlo, ha, hb, h4]
      · simp [Memory.wfFrom, h1, h2, h3, ih h4 (by omega)]

theorem Memory.wfFrom_drop {lo a : Nat} {m : Memory} (hm : Memory.wfFrom lo m = true) :
    Memory.wfFrom lo (m.drop a) = true := by
  induction m generalizing lo with
  | nil => rfl
  | cons c rest ih =>
    obtain ⟨a', b'⟩ := c
    simp only [Memory.wfFrom, Bool.and_eq_true, decide_eq_true_eq] at hm
    obtain ⟨⟨⟨h1, h2⟩, h3⟩, h4⟩ := hm
    simp only [Memory.drop]
    split
    · exact Memory.wfFrom_mono (by omega) (ih h4)
    · simp only [Memory.wfFrom, Bool.and_eq_true, decide_eq_true_eq]
      exact ⟨⟨⟨h1, h2⟩, h3⟩, ih h4⟩

/-- A write below 4096 keeps the canonical form. -/
theorem Memory.wf_write {m : Memory} {a : Nat} (hm : m.wf = true) (ha : a < 4096) (b : Byte) :
    (m.write a b).wf = true := by
  unfold Memory.write
  split
  · exact Memory.wfFrom_drop hm
  · next h => exact Memory.wfFrom_put hm (Nat.zero_le a) ha h

theorem reset_mem_wf : State.reset.mem.wf = true := rfl

theorem reduce_lt (a : Nat) : reduce a < 4096 := Nat.mod_lt _ (by decide)

theorem reduce_eq (a : Nat) : reduce a = a % 4096 := rfl

@[simp] theorem reduce_reduce (a : Nat) : reduce (reduce a) = reduce a := Nat.mod_mod a 4096

end Sys2Proof.Machine
end

