-- ==== Sys2Proof/Laws/Ops.lean ====
section
/-! SUPPORT. For each shared operation, once, everything it can do: the fields it keeps, and what reads after it. -/

namespace Sys2Proof.Machine

/-! ### Registers -/

/-- Read after write of a register (R8, R11). -/
@[simp] theorem State.readReg_writeReg (s : State) (r q : Reg) (b : Byte) :
    (s.writeReg r b).readReg q = if q = r then b else s.readReg q := by
  simp only [State.readReg, State.writeReg_v, Vector.get_eq_getElem, Vector.getElem_set, Fin.ext_iff, eq_comm]

/-- A register reads the same in two states with the same `V`. -/
theorem State.readReg_congr {s t : State} (h : t.v = s.v) (r : Reg) : t.readReg r = s.readReg r := by
  rw [State.readReg, h, State.readReg]

/-- Writing a register with what it holds changes nothing. -/
theorem State.writeReg_readReg (s : State) (r : Reg) : s.writeReg r (s.readReg r) = s := by
  simp [State.writeReg, State.readReg, Vector.get_eq_getElem]

/-- Result first, flag last (R80 (b)): with `x = 0xF` the flag is what `V[0xF]` holds afterwards. -/
@[simp] theorem State.readReg_writeResultFlag (s : State) (x q : Reg) (res : Byte) (flag : Bool) :
    (s.writeResultFlag Policy.flagWriteOrder x res flag).readReg q =
      if q = 15 then flagByte flag else if q = x then res else s.readReg q := by
  simp only [State.writeResultFlag, Policy.flagWriteOrder, State.readReg_writeReg, flagReg]

/-- `LOGIC_WRITES_VF = false`: the result only. -/
@[simp] theorem State.writeLogic_eq (s : State) (x : Reg) (res : Byte) :
    s.writeLogic Policy.logicWritesVF x res = s.writeReg x res := rfl

/-- `BLOCK_I_INCREMENT = none`: `I` unchanged. -/
@[simp] theorem State.afterBlock_eq (s : State) (x : Reg) : s.afterBlock Policy.blockIncrement x = s := rfl

/-- `SHIFT_SRC = VX`: `V[x]` is shifted. -/
@[simp] theorem shiftReg_eq (x y : Reg) : shiftReg Policy.shiftSrc x y = x := rfl

@[simp] theorem State.writeResultFlag_mem (s : State) (x : Reg) (res : Byte) (flag : Bool) : (s.writeResultFlag Policy.flagWriteOrder x res flag).mem = s.mem := rfl
@[simp] theorem State.writeResultFlag_i (s : State) (x : Reg) (res : Byte) (flag : Bool) : (s.writeResultFlag Policy.flagWriteOrder x res flag).i = s.i := rfl
@[simp] theorem State.writeResultFlag_pc (s : State) (x : Reg) (res : Byte) (flag : Bool) : (s.writeResultFlag Policy.flagWriteOrder x res flag).pc = s.pc := rfl
@[simp] theorem State.writeResultFlag_stack (s : State) (x : Reg) (res : Byte) (flag : Bool) : (s.writeResultFlag Policy.flagWriteOrder x res flag).stack = s.stack := rfl
@[simp] theorem State.writeResultFlag_sp (s : State) (x : Reg) (res : Byte) (flag : Bool) : (s.writeResultFlag Policy.flagWriteOrder x res flag).sp = s.sp := rfl
@[simp] theorem State.writeResultFlag_fb (s : State) (x : Reg) (res : Byte) (flag : Bool) : (s.writeResultFlag Policy.flagWriteOrder x res flag).fb = s.fb := rfl
@[simp] theorem State.writeResultFlag_dt (s : State) (x : Reg) (res : Byte) (flag : Bool) : (s.writeResultFlag Policy.flagWriteOrder x res flag).dt = s.dt := rfl
@[simp] theorem State.writeResultFlag_st (s : State) (x : Reg) (res : Byte) (flag : Bool) : (s.writeResultFlag Policy.flagWriteOrder x res flag).st = s.st := rfl
@[simp] theorem State.writeResultFlag_key (s : State) (x : Reg) (res : Byte) (flag : Bool) : (s.writeResultFlag Policy.flagWriteOrder x res flag).key = s.key := rfl
@[simp] theorem State.writeResultFlag_wait (s : State) (x : Reg) (res : Byte) (flag : Bool) : (s.writeResultFlag Policy.flagWriteOrder x res flag).wait = s.wait := rfl
@[simp] theorem State.writeResultFlag_wreg (s : State) (x : Reg) (res : Byte) (flag : Bool) : (s.writeResultFlag Policy.flagWriteOrder x res flag).wreg = s.wreg := rfl
@[simp] theorem State.writeResultFlag_kprev (s : State) (x : Reg) (res : Byte) (flag : Bool) : (s.writeResultFlag Policy.flagWriteOrder x res flag).kprev = s.kprev := rfl
@[simp] theorem State.writeResultFlag_fault (s : State) (x : Reg) (res : Byte) (flag : Bool) : (s.writeResultFlag Policy.flagWriteOrder x res flag).fault = s.fault := rfl
@[simp] theorem State.writeResultFlag_draws (s : State) (x : Reg) (res : Byte) (flag : Bool) : (s.writeResultFlag Policy.flagWriteOrder x res flag).draws = s.draws := rfl

/-! ### Skips -/

theorem State.skipIf_pc (s : State) (c : Bool) : (s.skipIf c).pc = if c then s.pc + 2 else s.pc := by
  cases c <;> rfl

@[simp] theorem State.skipIf_mem (s : State) (c : Bool) : (s.skipIf c).mem = s.mem := by cases c <;> rfl
@[simp] theorem State.skipIf_v (s : State) (c : Bool) : (s.skipIf c).v = s.v := by cases c <;> rfl
@[simp] theorem State.skipIf_i (s : State) (c : Bool) : (s.skipIf c).i = s.i := by cases c <;> rfl
@[simp] theorem State.skipIf_stack (s : State) (c : Bool) : (s.skipIf c).stack = s.stack := by cases c <;> rfl
@[simp] theorem State.skipIf_sp (s : State) (c : Bool) : (s.skipIf c).sp = s.sp := by cases c <;> rfl
@[simp] theorem State.skipIf_fb (s : State) (c : Bool) : (s.skipIf c).fb = s.fb := by cases c <;> rfl
@[simp] theorem State.skipIf_dt (s : State) (c : Bool) : (s.skipIf c).dt = s.dt := by cases c <;> rfl
@[simp] theorem State.skipIf_st (s : State) (c : Bool) : (s.skipIf c).st = s.st := by cases c <;> rfl
@[simp] theorem State.skipIf_key (s : State) (c : Bool) : (s.skipIf c).key = s.key := by cases c <;> rfl
@[simp] theorem State.skipIf_wait (s : State) (c : Bool) : (s.skipIf c).wait = s.wait := by cases c <;> rfl
@[simp] theorem State.skipIf_wreg (s : State) (c : Bool) : (s.skipIf c).wreg = s.wreg := by cases c <;> rfl
@[simp] theorem State.skipIf_kprev (s : State) (c : Bool) : (s.skipIf c).kprev = s.kprev := by cases c <;> rfl
@[simp] theorem State.skipIf_fault (s : State) (c : Bool) : (s.skipIf c).fault = s.fault := by cases c <;> rfl
@[simp] theorem State.skipIf_draws (s : State) (c : Bool) : (s.skipIf c).draws = s.draws := by cases c <;> rfl

/-! ### Reads that see only their own field -/

theorem State.readByte_congr {s t : State} (h : t.mem = s.mem) (a : Nat) : t.readByte a = s.readByte a := by
  rw [State.readByte, h, State.readByte]

theorem State.cell_congr {s t : State} (h : t.fb = s.fb) (yy : Fin 32) (xx : Fin 64) : t.cell yy xx = s.cell yy xx := by
  rw [State.cell, h, State.cell]

/-! ### Memory -/

/-- Read after write of a byte, both addresses reduced (R41, R42). -/
@[simp] theorem State.readByte_writeByte (s : State) (a k : Nat) (b : Byte) :
    (s.writeByte a b).readByte k = if reduce k = reduce a then b else s.readByte k := by
  simp only [State.readByte, State.writeByte_mem, Memory.read_write]

/-- A read reduces its address (R41). -/
theorem State.readByte_reduce (s : State) (a : Nat) : s.readByte (reduce a) = s.readByte a := by
  simp only [State.readByte, reduce_reduce]

theorem State.writeByte_wf {s : State} (h : s.mem.wf = true) (a : Nat) (b : Byte) : (s.writeByte a b).mem.wf = true :=
  Memory.wf_write h (reduce_lt a) b

/-- A store of bytes changes memory only. -/
theorem State.storeBytes_eq (s : State) (a : Nat) (bs : List Byte) :
    ∃ m, s.storeBytes a bs = { s with mem := m } := by
  induction bs generalizing s a with
  | nil => exact ⟨s.mem, rfl⟩
  | cons b bs ih =>
    obtain ⟨m, h⟩ := ih (s.writeByte a b) (a + 1)
    exact ⟨m, by rw [State.storeBytes, h]; rfl⟩

@[simp] theorem State.storeBytes_v (s : State) (a : Nat) (bs : List Byte) : (s.storeBytes a bs).v = s.v := by obtain ⟨m, h⟩ := s.storeBytes_eq a bs; rw [h]
@[simp] theorem State.storeBytes_i (s : State) (a : Nat) (bs : List Byte) : (s.storeBytes a bs).i = s.i := by obtain ⟨m, h⟩ := s.storeBytes_eq a bs; rw [h]
@[simp] theorem State.storeBytes_pc (s : State) (a : Nat) (bs : List Byte) : (s.storeBytes a bs).pc = s.pc := by obtain ⟨m, h⟩ := s.storeBytes_eq a bs; rw [h]
@[simp] theorem State.storeBytes_stack (s : State) (a : Nat) (bs : List Byte) : (s.storeBytes a bs).stack = s.stack := by obtain ⟨m, h⟩ := s.storeBytes_eq a bs; rw [h]
@[simp] theorem State.storeBytes_sp (s : State) (a : Nat) (bs : List Byte) : (s.storeBytes a bs).sp = s.sp := by obtain ⟨m, h⟩ := s.storeBytes_eq a bs; rw [h]
@[simp] theorem State.storeBytes_fb (s : State) (a : Nat) (bs : List Byte) : (s.storeBytes a bs).fb = s.fb := by obtain ⟨m, h⟩ := s.storeBytes_eq a bs; rw [h]
@[simp] theorem State.storeBytes_dt (s : State) (a : Nat) (bs : List Byte) : (s.storeBytes a bs).dt = s.dt := by obtain ⟨m, h⟩ := s.storeBytes_eq a bs; rw [h]
@[simp] theorem State.storeBytes_st (s : State) (a : Nat) (bs : List Byte) : (s.storeBytes a bs).st = s.st := by obtain ⟨m, h⟩ := s.storeBytes_eq a bs; rw [h]
@[simp] theorem State.storeBytes_key (s : State) (a : Nat) (bs : List Byte) : (s.storeBytes a bs).key = s.key := by obtain ⟨m, h⟩ := s.storeBytes_eq a bs; rw [h]
@[simp] theorem State.storeBytes_wait (s : State) (a : Nat) (bs : List Byte) : (s.storeBytes a bs).wait = s.wait := by obtain ⟨m, h⟩ := s.storeBytes_eq a bs; rw [h]
@[simp] theorem State.storeBytes_wreg (s : State) (a : Nat) (bs : List Byte) : (s.storeBytes a bs).wreg = s.wreg := by obtain ⟨m, h⟩ := s.storeBytes_eq a bs; rw [h]
@[simp] theorem State.storeBytes_kprev (s : State) (a : Nat) (bs : List Byte) : (s.storeBytes a bs).kprev = s.kprev := by obtain ⟨m, h⟩ := s.storeBytes_eq a bs; rw [h]
@[simp] theorem State.storeBytes_fault (s : State) (a : Nat) (bs : List Byte) : (s.storeBytes a bs).fault = s.fault := by obtain ⟨m, h⟩ := s.storeBytes_eq a bs; rw [h]
@[simp] theorem State.storeBytes_draws (s : State) (a : Nat) (bs : List Byte) : (s.storeBytes a bs).draws = s.draws := by obtain ⟨m, h⟩ := s.storeBytes_eq a bs; rw [h]

theorem State.storeBytes_wf {s : State} (h : s.mem.wf = true) (a : Nat) (bs : List Byte) :
    (s.storeBytes a bs).mem.wf = true := by
  induction bs generalizing s a with
  | nil => exact h
  | cons b bs ih => exact ih (State.writeByte_wf h a b) (a + 1)

/-- A store leaves every byte alone that it does not store to. -/
theorem State.readByte_storeBytes_other (s : State) (a : Nat) (bs : List Byte) (k : Nat)
    (h : ∀ j, j < bs.length → reduce k ≠ reduce (a + j)) : (s.storeBytes a bs).readByte k = s.readByte k := by
  induction bs generalizing s a with
  | nil => rfl
  | cons b bs ih =>
    rw [State.storeBytes, ih]
    · have h0 := h 0 (by simp)
      simp only [Nat.add_zero] at h0
      simp only [State.readByte_writeByte, if_neg h0]
    · intro j hj
      have := h (j + 1) (by simp; omega)
      rwa [show a + 1 + j = a + (j + 1) by omega]

/-- A store of at most 4096 bytes: byte `j` reads back at `a + j`. -/
theorem State.readByte_storeBytes_self (s : State) (a : Nat) (bs : List Byte) (hlen : bs.length ≤ 4096) (j : Nat)
    (hj : j < bs.length) : (s.storeBytes a bs).readByte (a + j) = bs[j] := by
  induction bs generalizing s a j with
  | nil => simp at hj
  | cons b bs ih =>
    simp only [List.length_cons] at hlen hj
    rw [State.storeBytes]
    cases j with
    | zero =>
      rw [State.readByte_storeBytes_other]
      · simp
      · intro k hk; simp only [reduce_eq]; omega
    | succ j =>
      have := ih (s.writeByte a b) (a + 1) (by omega) j (by omega)
      rw [show a + (j + 1) = a + 1 + j by omega, this]; rfl

/-! ### Block of registers -/

theorem mem_regsUpTo (x r : Reg) : r ∈ regsUpTo x ↔ r ≤ x := by
  simp only [regsUpTo, List.mem_map, List.mem_range]
  constructor
  · rintro ⟨j, hj, rfl⟩
    rw [Fin.le_def, Fin.val_ofNat]
    omega
  · intro h
    exact ⟨r.val, by rw [Fin.le_def] at h; omega, by ext; simp⟩

@[simp] theorem length_regsUpTo (x : Reg) : (regsUpTo x).length = x.val + 1 := by simp [regsUpTo]

theorem getElem_regsUpTo (x : Reg) (j : Nat) (h : j < (regsUpTo x).length) :
    (regsUpTo x)[j] = ⟨j, by simp at h; omega⟩ := by
  simp only [regsUpTo, List.getElem_map, List.getElem_range]
  ext
  simp only [length_regsUpTo] at h
  simp only [Fin.val_ofNat]
  omega

@[simp] theorem State.length_blockBytes (s : State) (x : Reg) : (s.blockBytes x).length = x.val + 1 := by
  simp [State.blockBytes]

theorem State.getElem_blockBytes (s : State) (x : Reg) (j : Nat) (h : j < (s.blockBytes x).length) :
    (s.blockBytes x)[j] = s.readReg ⟨j, by simp at h; omega⟩ := by
  simp only [State.blockBytes, List.getElem_map, getElem_regsUpTo]

/-- A block load changes `V` only. -/
theorem State.loadRegs_eq (s : State) (js : List Reg) : ∃ v, s.loadRegs js = { s with v := v } := by
  induction js generalizing s with
  | nil => exact ⟨s.v, rfl⟩
  | cons j js ih =>
    obtain ⟨v, h⟩ := ih (s.writeReg j (s.readByte (s.i.toNat + j.val)))
    exact ⟨v, by rw [State.loadRegs, h]; rfl⟩

@[simp] theorem State.loadRegs_mem (s : State) (js : List Reg) : (s.loadRegs js).mem = s.mem := by obtain ⟨v, h⟩ := s.loadRegs_eq js; rw [h]
@[simp] theorem State.loadRegs_i (s : State) (js : List Reg) : (s.loadRegs js).i = s.i := by obtain ⟨v, h⟩ := s.loadRegs_eq js; rw [h]
@[simp] theorem State.loadRegs_pc (s : State) (js : List Reg) : (s.loadRegs js).pc = s.pc := by obtain ⟨v, h⟩ := s.loadRegs_eq js; rw [h]
@[simp] theorem State.loadRegs_stack (s : State) (js : List Reg) : (s.loadRegs js).stack = s.stack := by obtain ⟨v, h⟩ := s.loadRegs_eq js; rw [h]
@[simp] theorem State.loadRegs_sp (s : State) (js : List Reg) : (s.loadRegs js).sp = s.sp := by obtain ⟨v, h⟩ := s.loadRegs_eq js; rw [h]
@[simp] theorem State.loadRegs_fb (s : State) (js : List Reg) : (s.loadRegs js).fb = s.fb := by obtain ⟨v, h⟩ := s.loadRegs_eq js; rw [h]
@[simp] theorem State.loadRegs_dt (s : State) (js : List Reg) : (s.loadRegs js).dt = s.dt := by obtain ⟨v, h⟩ := s.loadRegs_eq js; rw [h]
@[simp] theorem State.loadRegs_st (s : State) (js : List Reg) : (s.loadRegs js).st = s.st := by obtain ⟨v, h⟩ := s.loadRegs_eq js; rw [h]
@[simp] theorem State.loadRegs_key (s : State) (js : List Reg) : (s.loadRegs js).key = s.key := by obtain ⟨v, h⟩ := s.loadRegs_eq js; rw [h]
@[simp] theorem State.loadRegs_wait (s : State) (js : List Reg) : (s.loadRegs js).wait = s.wait := by obtain ⟨v, h⟩ := s.loadRegs_eq js; rw [h]
@[simp] theorem State.loadRegs_wreg (s : State) (js : List Reg) : (s.loadRegs js).wreg = s.wreg := by obtain ⟨v, h⟩ := s.loadRegs_eq js; rw [h]
@[simp] theorem State.loadRegs_kprev (s : State) (js : List Reg) : (s.loadRegs js).kprev = s.kprev := by obtain ⟨v, h⟩ := s.loadRegs_eq js; rw [h]
@[simp] theorem State.loadRegs_fault (s : State) (js : List Reg) : (s.loadRegs js).fault = s.fault := by obtain ⟨v, h⟩ := s.loadRegs_eq js; rw [h]
@[simp] theorem State.loadRegs_draws (s : State) (js : List Reg) : (s.loadRegs js).draws = s.draws := by obtain ⟨v, h⟩ := s.loadRegs_eq js; rw [h]

/-- A block load: each register of the list holds its byte of memory, the others are as before (R126). -/
theorem State.readReg_loadRegs (s : State) (js : List Reg) (q : Reg) :
    (s.loadRegs js).readReg q = if q ∈ js then s.readByte (s.i.toNat + q.val) else s.readReg q := by
  induction js generalizing s with
  | nil => simp [State.loadRegs]
  | cons j js ih =>
    rw [State.loadRegs, ih, State.readReg_writeReg, State.writeReg_i, State.readByte_congr (State.writeReg_mem s j _)]
    by_cases h1 : q ∈ js
    · simp [h1]
    · by_cases h2 : q = j
      · subst h2; simp
      · simp [h1, h2]

/-! ### The call stack -/

theorem State.push_of_lt (s : State) (w : Word) (h : s.sp.val < 16) :
    s.push w = { s with stack := s.stack.set s.sp.val w h, sp := ⟨s.sp.val + 1, by omega⟩ } := by
  rw [State.push, dif_pos h]

theorem State.pop_of_pos (s : State) (h : 0 < s.sp.val) :
    s.pop = { s with sp := ⟨s.sp.val - 1, by omega⟩, pc := s.stack[s.sp.val - 1]'(by omega) } := by
  rw [State.pop, dif_pos h]

@[simp] theorem State.push_mem (s : State) (w : Word) : (s.push w).mem = s.mem := by unfold State.push; split <;> rfl
@[simp] theorem State.push_v (s : State) (w : Word) : (s.push w).v = s.v := by unfold State.push; split <;> rfl
@[simp] theorem State.push_i (s : State) (w : Word) : (s.push w).i = s.i := by unfold State.push; split <;> rfl
@[simp] theorem State.push_pc (s : State) (w : Word) : (s.push w).pc = s.pc := by unfold State.push; split <;> rfl
@[simp] theorem State.push_fb (s : State) (w : Word) : (s.push w).fb = s.fb := by unfold State.push; split <;> rfl
@[simp] theorem State.push_dt (s : State) (w : Word) : (s.push w).dt = s.dt := by unfold State.push; split <;> rfl
@[simp] theorem State.push_st (s : State) (w : Word) : (s.push w).st = s.st := by unfold State.push; split <;> rfl
@[simp] theorem State.push_key (s : State) (w : Word) : (s.push w).key = s.key := by unfold State.push; split <;> rfl
@[simp] theorem State.push_wait (s : State) (w : Word) : (s.push w).wait = s.wait := by unfold State.push; split <;> rfl
@[simp] theorem State.push_wreg (s : State) (w : Word) : (s.push w).wreg = s.wreg := by unfold State.push; split <;> rfl
@[simp] theorem State.push_kprev (s : State) (w : Word) : (s.push w).kprev = s.kprev := by unfold State.push; split <;> rfl
@[simp] theorem State.push_fault (s : State) (w : Word) : (s.push w).fault = s.fault := by unfold State.push; split <;> rfl
@[simp] theorem State.push_draws (s : State) (w : Word) : (s.push w).draws = s.draws := by unfold State.push; split <;> rfl
@[simp] theorem State.pop_mem (s : State) : (s.pop).mem = s.mem := by unfold State.pop; split <;> rfl
@[simp] theorem State.pop_v (s : State) : (s.pop).v = s.v := by unfold State.pop; split <;> rfl
@[simp] theorem State.pop_i (s : State) : (s.pop).i = s.i := by unfold State.pop; split <;> rfl
@[simp] theorem State.pop_stack (s : State) : (s.pop).stack = s.stack := by unfold State.pop; split <;> rfl
@[simp] theorem State.pop_fb (s : State) : (s.pop).fb = s.fb := by unfold State.pop; split <;> rfl
@[simp] theorem State.pop_dt (s : State) : (s.pop).dt = s.dt := by unfold State.pop; split <;> rfl
@[simp] theorem State.pop_st (s : State) : (s.pop).st = s.st := by unfold State.pop; split <;> rfl
@[simp] theorem State.pop_key (s : State) : (s.pop).key = s.key := by unfold State.pop; split <;> rfl
@[simp] theorem State.pop_wait (s : State) : (s.pop).wait = s.wait := by unfold State.pop; split <;> rfl
@[simp] theorem State.pop_wreg (s : State) : (s.pop).wreg = s.wreg := by unfold State.pop; split <;> rfl
@[simp] theorem State.pop_kprev (s : State) : (s.pop).kprev = s.kprev := by unfold State.pop; split <;> rfl
@[simp] theorem State.pop_fault (s : State) : (s.pop).fault = s.fault := by unfold State.pop; split <;> rfl
@[simp] theorem State.pop_draws (s : State) : (s.pop).draws = s.draws := by unfold State.pop; split <;> rfl

/-! ### The display -/

/-- Read after write of a cell. -/
theorem State.cell_setCell (s : State) (yy y' : Fin 32) (xx x' : Fin 64) (b : Bool) :
    (s.setCell yy xx b).cell y' x' = if y' = yy ∧ x' = xx then b else s.cell y' x' := by
  simp only [State.cell, State.setCell_fb, Vector.get_eq_getElem, Vector.getElem_set, Fin.ext_iff]
  by_cases hy : yy.val = y'.val
  · by_cases hx : xx.val = x'.val
    · simp [hy, hx]
    · rw [if_pos hy, Vector.getElem_set, if_neg hx, if_neg (by omega)]
      simp only [hy]
  · rw [if_neg hy, if_neg (by omega)]

theorem State.cell_clearDisplay (s : State) (yy : Fin 32) (xx : Fin 64) : s.clearDisplay.cell yy xx = false := by
  simp [State.cell, Vector.get_eq_getElem]

/-- One pixel: its cell is toggled, no other cell changes (R132). -/
theorem State.cell_drawPixel (s : State) (py y' : Fin 32) (px x' : Fin 64) :
    (s.drawPixel py px).cell y' x' = if y' = py ∧ x' = px then !s.cell y' x' else s.cell y' x' := by
  have h : ∀ t : State, t.fb = s.fb → (t.setCell py px (!s.cell py px)).cell y' x' =
      if y' = py ∧ x' = px then !s.cell y' x' else s.cell y' x' := by
    intro t ht
    rw [State.cell_setCell, State.cell_congr ht]
    split
    · next hh => rw [hh.1, hh.2]
    · rfl
  unfold State.drawPixel
  apply h
  split <;> rfl

/-- One pixel: the flag is set when the cell was lit, and no other register changes (R132). -/
theorem State.readReg_drawPixel (s : State) (py : Fin 32) (px : Fin 64) (q : Reg) :
    (s.drawPixel py px).readReg q = if q = 15 ∧ s.cell py px = true then 1 else s.readReg q := by
  unfold State.drawPixel
  rw [State.readReg_congr (State.setCell_v _ _ _ _)]
  cases s.cell py px <;> simp [flagReg]

/-- The cells the set bits of a sprite row fall on, left to right (R132). -/
def rowCells (x0 y0 r : Nat) (b : Byte) : List (Fin 32 × Fin 64) :=
  ((List.range 8).filter fun c => b.getLsbD (7 - c)).map fun c => (Fin.ofNat 32 (y0 + r), Fin.ofNat 64 (x0 + c))

/-- Drawing a list of cells, one pixel after the other. -/
def State.drawCells (s : State) (cs : List (Fin 32 × Fin 64)) : State := cs.foldl (fun s p => s.drawPixel p.1 p.2) s

theorem State.drawCells_cons (s : State) (p : Fin 32 × Fin 64) (cs : List (Fin 32 × Fin 64)) :
    s.drawCells (p :: cs) = (s.drawPixel p.1 p.2).drawCells cs := rfl

theorem State.drawCells_append (s : State) (cs ds : List (Fin 32 × Fin 64)) :
    s.drawCells (cs ++ ds) = (s.drawCells cs).drawCells ds := List.foldl_append

/-- Drawing cells changes `V` and the display only. -/
theorem State.drawCells_eq (s : State) (cs : List (Fin 32 × Fin 64)) :
    ∃ v fb, s.drawCells cs = { s with v := v, fb := fb } := by
  induction cs generalizing s with
  | nil => exact ⟨s.v, s.fb, rfl⟩
  | cons p cs ih =>
    obtain ⟨v, fb, h⟩ := ih (s.drawPixel p.1 p.2)
    refine ⟨v, fb, ?_⟩
    rw [State.drawCells_cons, h]
    unfold State.drawPixel
    dsimp only
    split <;> rfl

/-- Drawing distinct cells toggles each of them once and no other (R132 (e)). -/
theorem State.cell_drawCells (s : State) (cs : List (Fin 32 × Fin 64)) (hcs : cs.Nodup) (yy : Fin 32) (xx : Fin 64) :
    (s.drawCells cs).cell yy xx = if (yy, xx) ∈ cs then !s.cell yy xx else s.cell yy xx := by
  induction cs generalizing s with
  | nil => rfl
  | cons p cs ih =>
    obtain ⟨hp, hcs⟩ := List.nodup_cons.1 hcs
    rw [State.drawCells_cons, ih _ hcs, State.cell_drawPixel]
    by_cases h : (yy, xx) = p
    · subst h; simp [hp]
    · have h' : ¬ (yy = p.1 ∧ xx = p.2) := fun e => h (Prod.ext e.1 e.2)
      simp [h, h']

/-- Drawing distinct cells sets the flag exactly when one of them was lit (R132). -/
theorem State.readReg_drawCells (s : State) (cs : List (Fin 32 × Fin 64)) (hcs : cs.Nodup) (q : Reg) :
    (s.drawCells cs).readReg q =
      if q = 15 ∧ ∃ p ∈ cs, s.cell p.1 p.2 = true then 1 else s.readReg q := by
  induction cs generalizing s with
  | nil => simp [State.drawCells]
  | cons p cs ih =>
    obtain ⟨hp, hcs⟩ := List.nodup_cons.1 hcs
    have hkeep : ∀ r ∈ cs, (s.drawPixel p.1 p.2).cell r.1 r.2 = s.cell r.1 r.2 := by
      intro r hr
      rw [State.cell_drawPixel, if_neg]
      rintro ⟨h1, h2⟩
      exact hp (by rwa [← Prod.ext h1 h2])
    have hex : (∃ r ∈ cs, (s.drawPixel p.1 p.2).cell r.1 r.2 = true) ↔ ∃ r ∈ cs, s.cell r.1 r.2 = true :=
      ⟨fun ⟨r, hr, h⟩ => ⟨r, hr, by rwa [hkeep r hr] at h⟩, fun ⟨r, hr, h⟩ => ⟨r, hr, by rwa [hkeep r hr]⟩⟩
    rw [State.drawCells_cons, ih _ hcs, State.readReg_drawPixel]
    simp only [hex, List.mem_cons, exists_eq_or_imp]
    by_cases hq : q = 15 <;> by_cases h1 : s.cell p.1 p.2 = true <;> by_cases h2 : ∃ r ∈ cs, s.cell r.1 r.2 = true <;>
      simp [hq, h1, h2]

theorem State.drawRow_eq (s : State) (x0 y0 r : Nat) (b : Byte) :
    s.drawRow x0 y0 r b = s.drawCells (rowCells x0 y0 r b) := by
  rw [State.drawRow, State.drawCells, rowCells, List.foldl_map, List.foldl_filter]

theorem mem_rowCells (x0 y0 r : Nat) (b : Byte) (p : Fin 32 × Fin 64) :
    p ∈ rowCells x0 y0 r b ↔
      ∃ c, c < 8 ∧ b.getLsbD (7 - c) = true ∧ p.1.val = (y0 + r) % 32 ∧ p.2.val = (x0 + c) % 64 := by
  simp only [rowCells, List.mem_map, List.mem_filter, List.mem_range]
  constructor
  · rintro ⟨c, ⟨hc, hb⟩, rfl⟩
    exact ⟨c, hc, hb, Fin.val_ofNat .., Fin.val_ofNat ..⟩
  · rintro ⟨c, hc, hb, h1, h2⟩
    exact ⟨c, ⟨hc, hb⟩, Prod.ext (Fin.ext h1.symm) (Fin.ext h2.symm)⟩

/-- The 8 columns of a row are 8 distinct cells (R132 (e)). -/
theorem nodup_rowCells (x0 y0 r : Nat) (b : Byte) : (rowCells x0 y0 r b).Nodup := by
  refine (List.nodup_map_iff_inj_on (List.nodup_range.filter _)).2 ?_
  intro c hc c' hc' h
  have h2 := congrArg (fun p : Fin 32 × Fin 64 => p.2.val) h
  simp only [Fin.val_ofNat, List.mem_filter, List.mem_range] at h2 hc hc'
  omega

/-- All cells of an `n`-row sprite at `base`. -/
def State.spriteCells (s : State) (x0 y0 base n : Nat) : List (Fin 32 × Fin 64) :=
  (List.range n).flatMap fun r => rowCells x0 y0 r (s.readByte (base + r))

/-- A draw is the drawing of its cells: sprite bytes are not changed by drawing (R132). -/
theorem State.drawRows_eq (s : State) (x0 y0 base n : Nat) :
    s.drawRows x0 y0 base n = s.drawCells (s.spriteCells x0 y0 base n) := by
  induction n with
  | zero => rfl
  | succ n ih =>
    have hmem : (s.drawRows x0 y0 base n).mem = s.mem := by
      obtain ⟨v, fb, h⟩ := s.drawCells_eq (s.spriteCells x0 y0 base n)
      rw [ih, h]
    rw [State.drawRows, List.range_succ, List.foldl_append]
    change ((s.drawRows x0 y0 base n).drawRow x0 y0 n ((s.drawRows x0 y0 base n).readByte (base + n))) = _
    rw [State.readByte_congr hmem, State.drawRow_eq, ih, ← State.drawCells_append, State.spriteCells, State.spriteCells,
      List.range_succ, List.flatMap_append]
    simp

/-- At most 32 rows of a sprite fall on distinct rows, so its cells are distinct (R132 (e)). -/
theorem State.nodup_spriteCells (s : State) (x0 y0 base n : Nat) (hn : n ≤ 32) : (s.spriteCells x0 y0 base n).Nodup := by
  refine List.nodup_flatMap.2 ⟨fun r _ => nodup_rowCells .., ?_⟩
  refine List.Pairwise.imp_of_mem ?_ List.pairwise_lt_range
  intro r r' hr hr' hlt p hp hp'
  obtain ⟨_, _, _, h1, _⟩ := (mem_rowCells ..).1 hp
  obtain ⟨_, _, _, h1', _⟩ := (mem_rowCells ..).1 hp'
  simp only [List.mem_range] at hr hr'
  omega

theorem State.mem_spriteCells (s : State) (x0 y0 base n : Nat) (p : Fin 32 × Fin 64) :
    p ∈ s.spriteCells x0 y0 base n ↔
      ∃ r c, r < n ∧ c < 8 ∧ (s.readByte (base + r)).getLsbD (7 - c) = true ∧
        p.1.val = (y0 + r) % 32 ∧ p.2.val = (x0 + c) % 64 := by
  simp only [State.spriteCells, List.mem_flatMap, List.mem_range, mem_rowCells]
  constructor
  · rintro ⟨r, hr, c, hc, hb, h1, h2⟩; exact ⟨r, c, hr, hc, hb, h1, h2⟩
  · rintro ⟨r, c, hr, hc, hb, h1, h2⟩; exact ⟨r, hr, c, hc, hb, h1, h2⟩

@[simp] theorem State.drawRows_mem (s : State) (x0 y0 base n : Nat) : (s.drawRows x0 y0 base n).mem = s.mem := by
  rw [State.drawRows_eq]; obtain ⟨v, fb, h⟩ := s.drawCells_eq (s.spriteCells x0 y0 base n); rw [h]
@[simp] theorem State.drawRows_i (s : State) (x0 y0 base n : Nat) : (s.drawRows x0 y0 base n).i = s.i := by
  rw [State.drawRows_eq]; obtain ⟨v, fb, h⟩ := s.drawCells_eq (s.spriteCells x0 y0 base n); rw [h]
@[simp] theorem State.drawRows_pc (s : State) (x0 y0 base n : Nat) : (s.drawRows x0 y0 base n).pc = s.pc := by
  rw [State.drawRows_eq]; obtain ⟨v, fb, h⟩ := s.drawCells_eq (s.spriteCells x0 y0 base n); rw [h]
@[simp] theorem State.drawRows_stack (s : State) (x0 y0 base n : Nat) : (s.drawRows x0 y0 base n).stack = s.stack := by
  rw [State.drawRows_eq]; obtain ⟨v, fb, h⟩ := s.drawCells_eq (s.spriteCells x0 y0 base n); rw [h]
@[simp] theorem State.drawRows_sp (s : State) (x0 y0 base n : Nat) : (s.drawRows x0 y0 base n).sp = s.sp := by
  rw [State.drawRows_eq]; obtain ⟨v, fb, h⟩ := s.drawCells_eq (s.spriteCells x0 y0 base n); rw [h]
@[simp] theorem State.drawRows_dt (s : State) (x0 y0 base n : Nat) : (s.drawRows x0 y0 base n).dt = s.dt := by
  rw [State.drawRows_eq]; obtain ⟨v, fb, h⟩ := s.drawCells_eq (s.spriteCells x0 y0 base n); rw [h]
@[simp] theorem State.drawRows_st (s : State) (x0 y0 base n : Nat) : (s.drawRows x0 y0 base n).st = s.st := by
  rw [State.drawRows_eq]; obtain ⟨v, fb, h⟩ := s.drawCells_eq (s.spriteCells x0 y0 base n); rw [h]
@[simp] theorem State.drawRows_key (s : State) (x0 y0 base n : Nat) : (s.drawRows x0 y0 base n).key = s.key := by
  rw [State.drawRows_eq]; obtain ⟨v, fb, h⟩ := s.drawCells_eq (s.spriteCells x0 y0 base n); rw [h]
@[simp] theorem State.drawRows_wait (s : State) (x0 y0 base n : Nat) : (s.drawRows x0 y0 base n).wait = s.wait := by
  rw [State.drawRows_eq]; obtain ⟨v, fb, h⟩ := s.drawCells_eq (s.spriteCells x0 y0 base n); rw [h]
@[simp] theorem State.drawRows_wreg (s : State) (x0 y0 base n : Nat) : (s.drawRows x0 y0 base n).wreg = s.wreg := by
  rw [State.drawRows_eq]; obtain ⟨v, fb, h⟩ := s.drawCells_eq (s.spriteCells x0 y0 base n); rw [h]
@[simp] theorem State.drawRows_kprev (s : State) (x0 y0 base n : Nat) : (s.drawRows x0 y0 base n).kprev = s.kprev := by
  rw [State.drawRows_eq]; obtain ⟨v, fb, h⟩ := s.drawCells_eq (s.spriteCells x0 y0 base n); rw [h]
@[simp] theorem State.drawRows_fault (s : State) (x0 y0 base n : Nat) : (s.drawRows x0 y0 base n).fault = s.fault := by
  rw [State.drawRows_eq]; obtain ⟨v, fb, h⟩ := s.drawCells_eq (s.spriteCells x0 y0 base n); rw [h]
@[simp] theorem State.drawRows_draws (s : State) (x0 y0 base n : Nat) : (s.drawRows x0 y0 base n).draws = s.draws := by
  rw [State.drawRows_eq]; obtain ⟨v, fb, h⟩ := s.drawCells_eq (s.spriteCells x0 y0 base n); rw [h]

/-! ### Keys -/

theorem keyIsDown_of_lt (keys : Vector Bool 16) (k : Nat) (h : k < 16) : keyIsDown keys k = keys[k] := dif_pos h

theorem keyIsDown_of_ge (keys : Vector Bool 16) (k : Nat) (h : 16 ≤ k) : keyIsDown keys k = false :=
  dif_neg (by omega)

theorem State.keyHit_eq (s : State) (k : Nat) :
    s.keyHit Policy.keyWaitMode k = (keyIsDown s.key k && !keyIsDown s.kprev k) := rfl

/-- The first hit is the least key that went from released to pressed (R146). -/
theorem State.firstHit_eq_some (s : State) (k : Nat) :
    s.firstHit Policy.keyWaitMode = some k ↔
      k < 16 ∧ s.keyHit Policy.keyWaitMode k = true ∧ ∀ j, j < k → s.keyHit Policy.keyWaitMode j = false := by
  unfold State.firstHit
  rw [List.find?_range_eq_some]
  simp only [List.mem_range]
  constructor
  · rintro ⟨h1, h2, h3⟩
    exact ⟨h2, h1, fun j hj => by simpa using h3 j hj⟩
  · rintro ⟨h1, h2, h3⟩
    exact ⟨h2, h1, fun j hj => by simpa using h3 j hj⟩

theorem State.firstHit_eq_none (s : State) :
    s.firstHit Policy.keyWaitMode = none ↔ ∀ j, j < 16 → s.keyHit Policy.keyWaitMode j = false := by
  unfold State.firstHit
  simp [List.find?_eq_none]

@[simp] theorem State.keyPoll_mem (s : State) : (s.keyPoll).mem = s.mem := by unfold State.keyPoll; split <;> rfl
@[simp] theorem State.keyPoll_i (s : State) : (s.keyPoll).i = s.i := by unfold State.keyPoll; split <;> rfl
@[simp] theorem State.keyPoll_pc (s : State) : (s.keyPoll).pc = s.pc := by unfold State.keyPoll; split <;> rfl
@[simp] theorem State.keyPoll_stack (s : State) : (s.keyPoll).stack = s.stack := by unfold State.keyPoll; split <;> rfl
@[simp] theorem State.keyPoll_sp (s : State) : (s.keyPoll).sp = s.sp := by unfold State.keyPoll; split <;> rfl
@[simp] theorem State.keyPoll_fb (s : State) : (s.keyPoll).fb = s.fb := by unfold State.keyPoll; split <;> rfl
@[simp] theorem State.keyPoll_dt (s : State) : (s.keyPoll).dt = s.dt := by unfold State.keyPoll; split <;> rfl
@[simp] theorem State.keyPoll_st (s : State) : (s.keyPoll).st = s.st := by unfold State.keyPoll; split <;> rfl
@[simp] theorem State.keyPoll_key (s : State) : (s.keyPoll).key = s.key := by unfold State.keyPoll; split <;> rfl
@[simp] theorem State.keyPoll_wreg (s : State) : (s.keyPoll).wreg = s.wreg := by unfold State.keyPoll; split <;> rfl
@[simp] theorem State.keyPoll_fault (s : State) : (s.keyPoll).fault = s.fault := by unfold State.keyPoll; split <;> rfl
@[simp] theorem State.keyPoll_draws (s : State) : (s.keyPoll).draws = s.draws := by unfold State.keyPoll; split <;> rfl

theorem State.keyPoll_kprev (s : State) : s.keyPoll.kprev = s.key := by unfold State.keyPoll; split <;> rfl

end Sys2Proof.Machine
end

