-- ==== Sys2Proof/Laws/HostOps.lean ====
section
/-! SUPPORT. What each of the host's operations does, said once: `Reset`, `Tick`, `SetKey`, `Load`, and one event of a run. -/

namespace Sys2Proof.Machine

/-- `Reset()` discards the state it finds but for the model's own counter (R157, R180). -/
theorem resetOp_eq (s : State) : resetOp s = { State.reset with draws := s.draws } := rfl

@[simp] theorem resetOp_readByte (s : State) (a : Nat) : (resetOp s).readByte a = State.reset.readByte a := rfl
@[simp] theorem resetOp_readReg (s : State) (r : Reg) : (resetOp s).readReg r = State.reset.readReg r := rfl
@[simp] theorem resetOp_cell (s : State) (yy : Fin 32) (xx : Fin 64) : (resetOp s).cell yy xx = State.reset.cell yy xx := rfl
@[simp] theorem resetOp_mem (s : State) : (resetOp s).mem = State.reset.mem := rfl
@[simp] theorem resetOp_v (s : State) : (resetOp s).v = State.reset.v := rfl
@[simp] theorem resetOp_i (s : State) : (resetOp s).i = State.reset.i := rfl
@[simp] theorem resetOp_pc (s : State) : (resetOp s).pc = State.reset.pc := rfl
@[simp] theorem resetOp_stack (s : State) : (resetOp s).stack = State.reset.stack := rfl
@[simp] theorem resetOp_sp (s : State) : (resetOp s).sp = State.reset.sp := rfl
@[simp] theorem resetOp_fb (s : State) : (resetOp s).fb = State.reset.fb := rfl
@[simp] theorem resetOp_dt (s : State) : (resetOp s).dt = State.reset.dt := rfl
@[simp] theorem resetOp_st (s : State) : (resetOp s).st = State.reset.st := rfl
@[simp] theorem resetOp_key (s : State) : (resetOp s).key = State.reset.key := rfl
@[simp] theorem resetOp_wait (s : State) : (resetOp s).wait = State.reset.wait := rfl
@[simp] theorem resetOp_wreg (s : State) : (resetOp s).wreg = State.reset.wreg := rfl
@[simp] theorem resetOp_kprev (s : State) : (resetOp s).kprev = State.reset.kprev := rfl
@[simp] theorem resetOp_fault (s : State) : (resetOp s).fault = State.reset.fault := rfl
@[simp] theorem resetOp_draws (s : State) : (resetOp s).draws = s.draws := rfl

/-- A timer's tick in numbers: one less, floored at 0 (R163). -/
theorem countDown_toNat : ∀ b : Byte, (countDown b).toNat = b.toNat - 1 := by decide

theorem setKey_of_lt {k : Nat} (h : k < 16) (p : Bool) (s : State) : setKey k p s = { s with key := s.key.set k p h } := dif_pos h

theorem setKey_of_ge {k : Nat} (h : 16 ≤ k) (p : Bool) (s : State) : setKey k p s = s := dif_neg (by omega)

theorem load_of_fits {bytes : List Byte} (h : bytes.length ≤ 3584) (s : State) :
    load bytes s = (.ok, s.storeBytes 0x200 bytes) := if_pos (decide_eq_true h)

theorem load_of_too_long {bytes : List Byte} (h : 3584 < bytes.length) (s : State) :
    load bytes s = (.romTooLarge bytes.length, s) := if_neg fun h' => Nat.not_le.2 h (of_decide_eq_true h')

/-- A run whose first event answers a next state goes on from that state. -/
theorem runEvents_cons {e : Event} {s t : State} (h : e.apply s = .next t) (es : List Event) :
    runEvents (e :: es) s = runEvents es t := by
  simp only [runEvents, h]

end Sys2Proof.Machine
end

