-- ==== Sys2Proof/Laws/PerInstr.lean ====
section
/-! SUPPORT. Statements about every instruction as syntax, one lemma per constructor. -/

namespace Sys2Proof.Laws.OperandsFit

/-- Every operand is within its field (R7, R61): "no field value is illegal" (R66). -/
def Statement (i : Instr) : Prop := i.wellFormed = true

theorem fits_nil : operandsFit [] = true := rfl

theorem fits_addr (a : Addr) : operandsFit [(.nnn, a.toNat)] = true := by
  simp [operandsFit, Field.bound, a.isLt]

theorem fits_reg (x : Reg) : operandsFit [(.reg, x.val)] = true := by
  simp [operandsFit, Field.bound]

theorem fits_reg_byte (x : Reg) (b : Byte) : operandsFit [(.reg, x.val), (.nn, b.toNat)] = true := by
  simp [operandsFit, Field.bound, b.isLt]

theorem fits_reg_reg (x y : Reg) : operandsFit [(.reg, x.val), (.reg, y.val)] = true := by
  simp [operandsFit, Field.bound]

theorem fits_reg_reg_n (x y : Reg) (n : Nibble) : operandsFit [(.reg, x.val), (.reg, y.val), (.n, n.toNat)] = true := by
  simp [operandsFit, Field.bound, n.isLt]

theorem cls : Statement .cls := fits_nil
theorem ret : Statement .ret := fits_nil
theorem jp (nnn : Addr) : Statement (.jp nnn) := fits_addr nnn
theorem call (nnn : Addr) : Statement (.call nnn) := fits_addr nnn
theorem seImm (x : Reg) (nn : Byte) : Statement (.seImm x nn) := fits_reg_byte x nn
theorem sneImm (x : Reg) (nn : Byte) : Statement (.sneImm x nn) := fits_reg_byte x nn
theorem seReg (x y : Reg) : Statement (.seReg x y) := fits_reg_reg x y
theorem ldImm (x : Reg) (nn : Byte) : Statement (.ldImm x nn) := fits_reg_byte x nn
theorem addImm (x : Reg) (nn : Byte) : Statement (.addImm x nn) := fits_reg_byte x nn
theorem ldReg (x y : Reg) : Statement (.ldReg x y) := fits_reg_reg x y
theorem orReg (x y : Reg) : Statement (.orReg x y) := fits_reg_reg x y
theorem andReg (x y : Reg) : Statement (.andReg x y) := fits_reg_reg x y
theorem xorReg (x y : Reg) : Statement (.xorReg x y) := fits_reg_reg x y
theorem addReg (x y : Reg) : Statement (.addReg x y) := fits_reg_reg x y
theorem sub (x y : Reg) : Statement (.sub x y) := fits_reg_reg x y
theorem shr (x y : Reg) : Statement (.shr x y) := fits_reg_reg x y
theorem subn (x y : Reg) : Statement (.subn x y) := fits_reg_reg x y
theorem shl (x y : Reg) : Statement (.shl x y) := fits_reg_reg x y
theorem sneReg (x y : Reg) : Statement (.sneReg x y) := fits_reg_reg x y
theorem ldI (nnn : Addr) : Statement (.ldI nnn) := fits_addr nnn
theorem jpV0 (nnn : Addr) : Statement (.jpV0 nnn) := fits_addr nnn
theorem rnd (x : Reg) (nn : Byte) : Statement (.rnd x nn) := fits_reg_byte x nn
theorem drw (x y : Reg) (n : Nibble) : Statement (.drw x y n) := fits_reg_reg_n x y n
theorem skp (x : Reg) : Statement (.skp x) := fits_reg x
theorem sknp (x : Reg) : Statement (.sknp x) := fits_reg x
theorem ldVxDt (x : Reg) : Statement (.ldVxDt x) := fits_reg x
theorem ldVxK (x : Reg) : Statement (.ldVxK x) := fits_reg x
theorem ldDtVx (x : Reg) : Statement (.ldDtVx x) := fits_reg x
theorem ldStVx (x : Reg) : Statement (.ldStVx x) := fits_reg x
theorem addIVx (x : Reg) : Statement (.addIVx x) := fits_reg x
theorem ldFVx (x : Reg) : Statement (.ldFVx x) := fits_reg x
theorem ldBVx (x : Reg) : Statement (.ldBVx x) := fits_reg x
theorem ldMemVx (x : Reg) : Statement (.ldMemVx x) := fits_reg x
theorem ldVxMem (x : Reg) : Statement (.ldVxMem x) := fits_reg x

end Sys2Proof.Laws.OperandsFit
end

