-- ==== Sys2Proof/Laws/Step.lean ====
section
/-! SUPPORT. What a step can do, said once: the cases of `Cycle()` (R63), and that every meaning has its next state. -/

namespace Sys2Proof.Machine

@[simp] theorem outcome_next_inj {s t : State} :
    (Host.Outcome.next s : Host.Outcome State Fault Refusal) = .next t ↔ s = t :=
  ⟨Host.Outcome.next.inj, fun h => h ▸ rfl⟩

/-- Every meaning answers a next state. -/
theorem exec_next (i : Instr) (s : State) : ∃ t, exec i s = .next t := by
  cases i with
  | ret => simp only [exec, execRet]; split <;> exact ⟨_, rfl⟩
  | call nnn => simp only [exec, execCall]; split <;> exact ⟨_, rfl⟩
  | _ => exact ⟨_, rfl⟩

theorem execRet_of_pos {s : State} (h : 0 < s.sp.val) : execRet s = .next s.pop := if_neg (by omega)

theorem execCall_of_lt {s : State} (nnn : Addr) (h : s.sp.val < 16) :
    execCall nnn s = .next ((s.push s.pc).setPc (addrOf nnn)) := if_neg (by simp only [Config.stackDepth]; omega)

theorem running_iff (s : State) : s.running = true ↔ s.fault = none ∧ s.wait = false := by
  simp [State.running, Option.isNone_iff_eq_none]

/-- One step, in the order of R63 and R158: halted and unchanged; waiting and a poll; an instruction on the advanced state; or an
unrecognized word, whose record is latched. -/
theorem step_cases {s t : State} (h : step s = .next t) :
    (s.fault.isSome = true ∧ t = s) ∨
    (s.fault = none ∧ s.wait = true ∧ t = s.keyPoll) ∨
    (∃ i, s.executes i ∧ exec i s.skip = .next t) ∨
    (s.running = true ∧ unrecognized s.fetchWord = true ∧ t = s.skip.raise (.unrecognizedOpcode s.fetchWord s.pc)) := by
  unfold step cycle at h
  split at h
  · next hf => exact .inl ⟨hf, (outcome_next_inj.1 h).symm⟩
  · next hf =>
    have hf' : s.fault = none := by simpa using hf
    split at h
    · next hw => exact .inr (.inl ⟨hf', hw, (outcome_next_inj.1 h).symm⟩)
    · next hw =>
      have hr : s.running = true := (running_iff s).2 ⟨hf', by simpa using hw⟩
      unfold execute at h
      split at h
      · next i hd => exact .inr (.inr (.inl ⟨i, ⟨hr, hd⟩, h⟩))
      · next e hd =>
        have ht := (outcome_next_inj.1 h).symm
        refine .inr (.inr (.inr ⟨hr, ?_, ?_⟩))
        · rw [unrecognized_iff, hd, decodeWord_error hd]
        · rw [ht, State.instrAddr, State.skip_pc, BitVec.add_sub_cancel]

/-- A running core that fetches a word of `i` executes `i` on the advanced state. -/
theorem step_of_executes {s : State} {i : Instr} (h : s.executes i) : step s = exec i s.skip := by
  obtain ⟨hf, hw⟩ := (running_iff s).1 h.1
  unfold step cycle execute
  rw [hf, hw, h.2]
  rfl

end Sys2Proof.Machine
end

