-- ==== Sys2Proof/Tests/Slice0.lean ====
section
/-! SUPPORT. Tests, each about one word or one step. Expected values come from spec/95_test_vectors.md (the part is named in each
section) and from the encodings of R64; the witnesses at the end show that each obligation's hypotheses can be met together. -/

namespace Sys2Proof.Tests

open Sys2Proof Sys2Proof.Machine

/-! ### Helpers -/

/-- The reset state with some registers written. -/
def regs (l : List (Reg × Byte)) : State := l.foldl (fun s p => s.writeReg p.1 p.2) State.reset

/-- The state after one step. -/
def after (s : State) : State :=
  match step s with
  | .next t => t
  | .fault _ => s
  | .refused _ => s

/-- The state after one step that runs the word placed at `pc`. -/
def run (s : State) (w : Nat) : State := after (s.withFetchWord 16 w)

/-- Cells by column and row, as spec/95_test_vectors.md writes them. -/
def lit (s : State) (cells : List (Fin 64 × Fin 32)) : Bool := cells.all fun p => s.cell p.2 p.1

/-- Cells that are off. -/
def dark (s : State) (cells : List (Fin 64 × Fin 32)) : Bool := cells.all fun p => !s.cell p.2 p.1

/-- A waiting core: `wait = 1`, `wreg = 3`, `kprev` all 0, the given keys down. -/
def waiting (down : List Nat) : State :=
  down.foldl (fun s k => setKey k true s) { State.reset with wait := true, wreg := 3 }

/-! ### Ill-formed terms are refused, one check each -/

theorem test_operand_register_16_refused : operandsFit [(.reg, 16)] = false := by decide
theorem test_operand_byte_256_refused : operandsFit [(.reg, 0), (.nn, 256)] = false := by decide
theorem test_operand_address_4096_refused : operandsFit [(.nnn, 4096)] = false := by decide
theorem test_operand_count_16_refused : operandsFit [(.reg, 0), (.reg, 0), (.n, 16)] = false := by decide
theorem test_operands_at_their_bounds_accepted : operandsFit [(.reg, 15), (.nn, 255), (.nnn, 4095), (.n, 15)] = true := by decide
theorem test_row_with_bit_outside_mask_refused : (OpcodeRow.mk 1 "CLS" 0xFFF0 0x00EE).wellFormed = false := by decide
theorem test_every_map_row_accepted : opcodeMap.all OpcodeRow.wellFormed = true := by decide
theorem test_image_of_3585_bytes_refused : imageFits (List.replicate 3585 0) = false := by
  rw [imageFits, List.length_replicate]; rfl
theorem test_image_of_3584_bytes_accepted : imageFits (List.replicate 3584 0) = true := by
  rw [imageFits, List.length_replicate]; rfl
theorem test_memory_out_of_order_refused : Memory.wf [(0x301, 1), (0x300, 1)] = false := by decide
theorem test_memory_repeated_address_refused : Memory.wf [(0x300, 1), (0x300, 2)] = false := by decide
theorem test_memory_address_4096_refused : Memory.wf [(4096, 1)] = false := by decide
theorem test_memory_cell_at_reset_contents_refused : Memory.wf [(0, 0xF0)] = false := by decide
theorem test_memory_last_address_accepted : Memory.wf [(0, 0), (4095, 1)] = true := by decide
theorem test_bytes_truncated_refused : decodeBytes [0x12] = .error .truncated := by decide

/-! ### Decoding: every constructor by a word written out from R64 -/

theorem test_decode_cls : decodeWord 0b0000_0000_1110_0000 = .ok (.cls) := by decide
theorem test_decode_ret : decodeWord 0b0000_0000_1110_1110 = .ok (.ret) := by decide
theorem test_decode_jp : decodeWord 0b0001_0010_0000_0100 = .ok (.jp 0x204) := by decide
theorem test_decode_call : decodeWord 0b0010_0010_0000_1010 = .ok (.call 0x20A) := by decide
theorem test_decode_seImm : decodeWord 0b0011_0011_0010_1010 = .ok (.seImm 3 0x2A) := by decide
theorem test_decode_sneImm : decodeWord 0b0100_0011_0010_1010 = .ok (.sneImm 3 0x2A) := by decide
theorem test_decode_seReg : decodeWord 0b0101_0001_0010_0000 = .ok (.seReg 1 2) := by decide
theorem test_decode_ldImm : decodeWord 0b0110_1010_0000_0101 = .ok (.ldImm 10 5) := by decide
theorem test_decode_addImm : decodeWord 0b0111_0000_1111_1111 = .ok (.addImm 0 0xFF) := by decide
theorem test_decode_ldReg : decodeWord 0b1000_1110_1111_0000 = .ok (.ldReg 14 15) := by decide
theorem test_decode_orReg : decodeWord 0b1000_0001_0010_0001 = .ok (.orReg 1 2) := by decide
theorem test_decode_andReg : decodeWord 0b1000_0001_0010_0010 = .ok (.andReg 1 2) := by decide
theorem test_decode_xorReg : decodeWord 0b1000_0001_0010_0011 = .ok (.xorReg 1 2) := by decide
theorem test_decode_addReg : decodeWord 0b1000_1111_0001_0100 = .ok (.addReg 15 1) := by decide
theorem test_decode_sub : decodeWord 0b1000_0001_0010_0101 = .ok (.sub 1 2) := by decide
theorem test_decode_shr : decodeWord 0b1000_0001_0010_0110 = .ok (.shr 1 2) := by decide
theorem test_decode_subn : decodeWord 0b1000_0001_0010_0111 = .ok (.subn 1 2) := by decide
theorem test_decode_shl : decodeWord 0b1000_0001_0010_1110 = .ok (.shl 1 2) := by decide
theorem test_decode_sneReg : decodeWord 0b1001_0001_0010_0000 = .ok (.sneReg 1 2) := by decide
theorem test_decode_ldI : decodeWord 0b1010_1111_1111_1111 = .ok (.ldI 0xFFF) := by decide
theorem test_decode_jpV0 : decodeWord 0b1011_0011_0100_0101 = .ok (.jpV0 0x345) := by decide
theorem test_decode_rnd : decodeWord 0b1100_0001_0000_1111 = .ok (.rnd 1 0x0F) := by decide
theorem test_decode_drw : decodeWord 0b1101_0001_0010_0101 = .ok (.drw 1 2 5) := by decide
theorem test_decode_skp : decodeWord 0b1110_0010_1001_1110 = .ok (.skp 2) := by decide
theorem test_decode_sknp : decodeWord 0b1110_0010_1010_0001 = .ok (.sknp 2) := by decide
theorem test_decode_ldVxDt : decodeWord 0b1111_0001_0000_0111 = .ok (.ldVxDt 1) := by decide
theorem test_decode_ldVxK : decodeWord 0b1111_0011_0000_1010 = .ok (.ldVxK 3) := by decide
theorem test_decode_ldDtVx : decodeWord 0b1111_0001_0001_0101 = .ok (.ldDtVx 1) := by decide
theorem test_decode_ldStVx : decodeWord 0b1111_0001_0001_1000 = .ok (.ldStVx 1) := by decide
theorem test_decode_addIVx : decodeWord 0b1111_0010_0001_1110 = .ok (.addIVx 2) := by decide
theorem test_decode_ldFVx : decodeWord 0b1111_0000_0010_1001 = .ok (.ldFVx 0) := by decide
theorem test_decode_ldBVx : decodeWord 0b1111_0011_0011_0011 = .ok (.ldBVx 3) := by decide
theorem test_decode_ldMemVx : decodeWord 0b1111_0001_0101_0101 = .ok (.ldMemVx 1) := by decide
theorem test_decode_ldVxMem : decodeWord 0b1111_0010_0110_0101 = .ok (.ldVxMem 2) := by decide

/-! T-DEC: words of no row. -/

theorem test_unrecognized_words :
    [0x0000, 0x00E1, 0x0123, 0x5121, 0x8128, 0x8129, 0x812A, 0x812B, 0x812C, 0x812D, 0x812F, 0x9123, 0xE19F, 0xF1FF, 0xF175].all
      (fun w : Word => unrecognized w) = true := by decide
theorem test_class0_is_matched_on_all_twelve_low_bits :
    [0x01E0, 0x01EE, 0x08E0, 0x08EE, 0x0FE0, 0x0FEE].all (fun w : Word => unrecognized w) = true := by decide
theorem test_decodeTableWord : decodeTableWord 16 0xD125 = some (.drw 1 2 5) ∧ decodeTableWord 16 0 = none := by decide

/-! ### Fetch (T-FETCH, T-DEC) -/

theorem test_boot_with_nothing_loaded_is_fatal :
    (after State.reset).fault = some (.unrecognizedOpcode 0 0x200) ∧ (after State.reset).pc = 0x202 := by decide
theorem test_fetch_is_big_endian : let t := after { State.reset with mem := [(0x200, 0x6A), (0x201, 0x55)] }
    t.readReg 10 = 0x55 ∧ t.pc = 0x202 := by decide
theorem test_fetch_wraps_and_pc_does_not : let t := after { State.reset with mem := [(0, 0x55), (0xFFF, 0x6A)], pc := 0xFFF }
    t.readReg 10 = 0x55 ∧ t.pc = 0x1001 := by decide
theorem test_fetch_above_memory_is_reduced : let t := after { State.reset with pc := 0x1000 }
    t.fault = some (.unrecognizedOpcode 0xF090 0x1000) ∧ t.pc = 0x1002 := by decide
theorem test_halted_core_does_nothing : step (after State.reset) = .next (after State.reset) := rfl

/-! ### Control flow (T-FLOW, T-SKIP, S3) -/

theorem test_jp : (run { State.reset with pc := 0x20A } 0x1204).pc = 0x204 := by decide
theorem test_jpV0_above_memory : (run (regs [(0, 0xFF)]) 0xBFFF).pc = 0x10FE := by decide
theorem test_jpV0_ignores_v3 : (run (regs [(3, 0x77)]) 0xB345).pc = 0x345 := by decide
theorem test_call : let t := run { State.reset with pc := 0x204 } 0x220A
    t.stack.get 0 = 0x206 ∧ t.sp = 1 ∧ t.pc = 0x20A := by decide
theorem test_call_overflow : let t := run { State.reset with sp := 16 } 0x2300
    t.fault = some (.stackOverflow 16 0x200) ∧ t.sp = 16 ∧ t.stack = State.reset.stack ∧ t.pc = 0x202 := by decide
theorem test_ret : let t := run { State.reset with pc := 0x20C, sp := 1, stack := State.reset.stack.set 0 0x206 } 0x00EE
    t.sp = 0 ∧ t.pc = 0x206 ∧ t.stack.get 0 = 0x206 := by decide
theorem test_ret_underflow : let t := run State.reset 0x00EE
    t.fault = some (.stackUnderflow 0 0x200) ∧ t.sp = 0 ∧ t.pc = 0x202 := by decide
theorem test_seImm : (run (regs [(3, 0x2A)]) 0x332A).pc = 0x204 ∧ (run (regs [(3, 0x2B)]) 0x332A).pc = 0x202 := by decide
theorem test_sneImm : (run (regs [(3, 0x2A)]) 0x432A).pc = 0x202 ∧ (run State.reset 0x432A).pc = 0x204 := by decide
theorem test_seReg : (run (regs [(1, 7), (2, 7)]) 0x5120).pc = 0x204 ∧ (run (regs [(1, 7), (2, 8)]) 0x5120).pc = 0x202 := by decide
theorem test_sneReg : (run (regs [(1, 7), (2, 8)]) 0x9120).pc = 0x204 ∧ (run (regs [(1, 7), (2, 7)]) 0x9120).pc = 0x202 := by decide

/-! ### Load, logic, arithmetic (T-LD, T-LOGIC, T-ADD, T-SUB, T-SUBN, T-SHR, T-SHL) -/

theorem test_ldImm : (run State.reset 0x6FFF).readReg 15 = 0xFF := by decide
theorem test_addImm_wraps_without_carry : let t := run (regs [(0, 0xFF)]) 0x7001
    t.readReg 0 = 0 ∧ t.readReg 15 = 0 := by decide
theorem test_ldReg : (run (regs [(15, 1)]) 0x8EF0).readReg 14 = 1 := by decide
theorem test_orReg : let t := run (regs [(1, 0xF0), (2, 0x0F), (15, 1)]) 0x8121
    t.readReg 1 = 0xFF ∧ t.readReg 15 = 1 := by decide
theorem test_andReg : let t := run (regs [(1, 0xF0), (2, 0x3C), (15, 1)]) 0x8122
    t.readReg 1 = 0x30 ∧ t.readReg 15 = 1 := by decide
theorem test_xorReg : let t := run (regs [(1, 0xF0), (2, 0x3C), (15, 1)]) 0x8123
    t.readReg 1 = 0xCC ∧ t.readReg 15 = 1 := by decide
theorem test_addReg_carries : let t := run (regs [(1, 0xC8), (2, 0x64)]) 0x8124
    t.readReg 1 = 0x2C ∧ t.readReg 15 = 1 := by decide
theorem test_addReg_flag_overwrites_result : (run (regs [(15, 1), (1, 2)]) 0x8F14).readReg 15 = 0 := by decide
theorem test_sub_borrows : let t := run (regs [(1, 0x0A), (2, 0x0B)]) 0x8125
    t.readReg 1 = 0xFF ∧ t.readReg 15 = 0 := by decide
theorem test_sub_equal_operands : let t := run (regs [(1, 0x37), (2, 0x37)]) 0x8125
    t.readReg 1 = 0 ∧ t.readReg 15 = 1 := by decide
theorem test_subn : let t := run (regs [(1, 0x0A), (2, 0x0B)]) 0x8127
    t.readReg 1 = 1 ∧ t.readReg 15 = 1 := by decide
theorem test_subn_borrows : let t := run (regs [(1, 0xFF)]) 0x8127
    t.readReg 1 = 1 ∧ t.readReg 15 = 0 := by decide
theorem test_shr_ignores_y : let t := run (regs [(1, 4), (2, 0xFF)]) 0x8126
    t.readReg 1 = 2 ∧ t.readReg 2 = 0xFF ∧ t.readReg 15 = 0 := by decide
theorem test_shr_of_vf : (run (regs [(15, 3)]) 0x8F06).readReg 15 = 1 := by decide
theorem test_shl : let t := run (regs [(1, 0x81)]) 0x810E
    t.readReg 1 = 2 ∧ t.readReg 15 = 1 := by decide
theorem test_shl_ignores_y : let t := run (regs [(1, 0x40), (2, 0xFF)]) 0x812E
    t.readReg 1 = 0x80 ∧ t.readReg 15 = 0 := by decide
theorem test_rnd_mask_zero : (run (regs [(1, 0x55)]) 0xC100).readReg 1 = 0 := by
  show (Config.draw8 0 &&& 0 : Byte) = 0
  exact BitVec.and_zero

/-! ### Index register and memory (T-IDX, T-MEM) -/

theorem test_ldI : (run State.reset 0xAFFF).i = 0x0FFF := by decide
theorem test_addIVx_wraps_at_16_bits : let t := run { regs [(2, 1), (15, 7)] with i := 0xFFFF } 0xF21E
    t.i = 0 ∧ t.readReg 15 = 7 := by decide
theorem test_ldFVx_ignores_high_nibble : (run (regs [(0, 0x1A)]) 0xF029).i = 0x32 := by decide
theorem test_ldBVx_wraps : let t := run { regs [(3, 0xEA)] with i := 0xFFE } 0xF333
    t.readByte 0xFFE = 2 ∧ t.readByte 0xFFF = 3 ∧ t.readByte 0 = 4 ∧ t.i = 0xFFE := by decide
theorem test_ldBVx_255 : let t := run { regs [(3, 0xFF)] with i := 0x300 } 0xF333
    t.readByte 0x300 = 2 ∧ t.readByte 0x301 = 5 ∧ t.readByte 0x302 = 5 := by decide
theorem test_ldMemVx_wraps : let t := run { regs [(0, 0xAA), (1, 0xBB)] with i := 0xFFF } 0xF155
    t.readByte 0xFFF = 0xAA ∧ t.readByte 0 = 0xBB ∧ t.i = 0xFFF := by decide
theorem test_ldMemVx_stops_at_x : let t := run { regs [(0, 0x11), (1, 0x22)] with i := 0x400 } 0xF055
    t.readByte 0x400 = 0x11 ∧ t.readByte 0x401 = 0 := by decide
theorem test_ldVxMem_stops_at_x :
    let t := run { regs [(3, 0x77)] with i := 0x400, mem := [(0x400, 2), (0x401, 5), (0x402, 5), (0x403, 9)] } 0xF265
    t.readReg 0 = 2 ∧ t.readReg 1 = 5 ∧ t.readReg 2 = 5 ∧ t.readReg 3 = 0x77 ∧ t.i = 0x400 := by decide
theorem test_ldVxMem_reads_font : let t := run State.reset 0xF165
    t.readReg 0 = 0xF0 ∧ t.readReg 1 = 0x90 := by decide

/-! ### Display (T-DRW) -/

theorem test_drw_wraps_columns : let t := run { regs [(1, 63), (2, 31)] with i := 0x300, mem := [(0x300, 0xFF)] } 0xD121
    lit t [(63, 31), (0, 31), (1, 31), (5, 31), (6, 31)] = true ∧ dark t [(7, 31), (62, 31), (63, 30), (63, 0)] = true ∧ t.readReg 15 = 0 := by decide
theorem test_drw_collision_and_wrapped_row :
    let t := run ({ regs [(2, 31)] with i := 0x300, mem := [(0x300, 0x80), (0x301, 0x80)] }.setCell 31 0 true) 0xD122
    lit t [(0, 0)] = true ∧ dark t [(0, 31), (1, 0), (0, 1)] = true ∧ t.readReg 15 = 1 := by decide
theorem test_cls : let t := run ((regs [(15, 1)]).setCell 31 63 true) 0x00E0
    dark t [(63, 31), (0, 0)] = true ∧ t.readReg 15 = 1 := by decide

/-! ### Timers and keys (T-TMR, T-KEY) -/

theorem test_ldVxDt : (run { State.reset with dt := 0x3C } 0xF107).readReg 1 = 0x3C := by decide
theorem test_ldDtVx : (run (regs [(1, 0x3C)]) 0xF115).dt = 0x3C := by decide
theorem test_ldStVx : let t := run (regs [(1, 2)]) 0xF118
    t.st = 2 ∧ soundActive t = true := by decide
theorem test_skp : (run (setKey 5 true (regs [(2, 5)])) 0xE29E).pc = 0x204 ∧
    (run (setKey 5 true (regs [(2, 0x15)])) 0xE29E).pc = 0x202 := by decide
theorem test_sknp : (run (setKey 5 true (regs [(2, 5)])) 0xE2A1).pc = 0x202 ∧
    (run (setKey 5 true (regs [(2, 0x15)])) 0xE2A1).pc = 0x204 := by decide
theorem test_ldVxK_arms : let t := run (setKey 4 true State.reset) 0xF30A
    t.wait = true ∧ t.wreg = 3 ∧ t.kprev.get 4 = true ∧ t.pc = 0x202 := by decide
theorem test_poll_stores_lowest_key : let t := after (waiting [9, 4])
    t.readReg 3 = 4 ∧ t.wait = false ∧ t.kprev.get 9 = true ∧ t.pc = 0x200 := by decide
theorem test_poll_finds_nothing : after (waiting []) = waiting [] := by decide

/-! ### The host's operations (T-TMR, T-LOAD, T-KEY) -/

theorem test_tick_floors_at_0 : (tick { State.reset with st := 1 }).st = 0 ∧ (tick State.reset).dt = 0 := by decide
theorem test_load_two_bytes : let t := (load [0x12, 0x00] State.reset).2
    t.readByte 0x200 = 0x12 ∧ t.readByte 0x201 = 0 ∧ t.mem = [(0x200, 0x12)] := by decide
theorem test_setKey_16_ignored : setKey 16 true State.reset = State.reset := by decide
theorem test_reset_of_a_halted_machine : let t := resetOp (after { regs [(1, 7)] with mem := [(0x300, 1)] })
    t.fault = none ∧ t.pc = 0x200 ∧ t.readReg 1 = 0 ∧ t.readByte 0x300 = 0 := by decide
theorem test_reset_font : State.reset.readByte 0x4B = 0xF0 ∧ State.reset.readByte 0x4F = 0x80 ∧ State.reset.readByte 0x50 = 0 := by
  decide

/-! ### Witnesses: the hypotheses of each obligation, met together, clause by clause at boundary values -/

/-- Every byte of the sprite row at 0x300 set, ready to draw at column 63, row 31. -/
def sprite : State := { regs [(1, 63), (2, 31)] with i := 0x300, mem := [(0x300, 0xFF)] }

/-- Halted on the word 0000 fetched at 0x200. -/
def stopped : State := after State.reset

theorem witness_EncodeOfDecodeIsIdentity : decodeWord 0x8126 = .ok (.shr 1 2) := by decide
theorem witness_DecoderFollowsOpcodeMap : (selectRow 0xF065).isSome = true ∧ selectRow 0x5121 = none := by decide
theorem witness_OpcodeMapRowsAreDisjoint : ∃ r ∈ opcodeMap, r.selects 0x00EE = true := ⟨⟨2, "RET", 0xFFFF, 0x00EE⟩, by decide, rfl⟩
theorem witness_StepRunsDecodedInstruction : let s := State.reset.withFetchWord 16 0x6A05
    s.fault = none ∧ s.wait = false ∧ decodeWord (s.readByte s.pc.toNat ++ s.readByte (s.pc.toNat + 1)) = .ok (.ldImm 10 5) := by
  decide
theorem witness_UnrecognizedOpcodeIsFatal : let s := State.reset
    s.fault = none ∧ s.wait = false ∧ (0x0000 : Word) = s.readByte s.pc.toNat ++ s.readByte (s.pc.toNat + 1) ∧
      unrecognized 0x0000 = true := by decide
theorem witness_FatalCycle_unrecognized :
    State.reset.fault = none ∧ step State.reset = .next stopped ∧ stopped.fault = some (.unrecognizedOpcode 0 0x200) :=
  ⟨rfl, rfl, rfl⟩
theorem witness_FatalCycle_overflow : let s := { State.reset with sp := 16 }.withFetchWord 16 0x2300
    s.fault = none ∧ step s = .next (after s) ∧ (after s).fault = some (.stackOverflow 16 0x200) := ⟨rfl, rfl, by decide⟩
theorem witness_FatalCycle_underflow : let s := State.reset.withFetchWord 16 0x00EE
    s.fault = none ∧ step s = .next (after s) ∧ (after s).fault = some (.stackUnderflow 0 0x200) := ⟨rfl, rfl, by decide⟩
theorem witness_HaltedCoreIsFrozen : stopped.fault = some (.unrecognizedOpcode 0 0x200) := rfl
theorem witness_WaitingCycle_no_transition : (waiting []).fault = none ∧ (waiting []).wait = true ∧
    ∀ k : Fin 16, ¬ ((waiting []).key.get k = true ∧ (waiting []).kprev.get k = false) := by decide
theorem witness_WaitingCycle_lowest_key : (waiting [0, 15]).fault = none ∧ (waiting [0, 15]).wait = true ∧
    (waiting [0, 15]).key.get 0 = true ∧ (waiting [0, 15]).kprev.get 0 = false := by decide
theorem witness_WaitingCycle_highest_key : (waiting [15]).key.get 15 = true ∧ (waiting [15]).kprev.get 15 = false ∧
    ∀ j : Fin 16, j < 15 → ¬ ((waiting [15]).key.get j = true ∧ (waiting [15]).kprev.get j = false) := by decide
theorem witness_StepKeepsInvariant : State.reset.Inv ∧ step State.reset = .next stopped := ⟨⟨rfl, rfl⟩, rfl⟩
theorem witness_RunsKeepInvariant : State.reset.Inv ∧
    runEvents [.load [0x00, 0xEE], .cycle, .tick] State.reset =
      .next (tick (after (load [0x00, 0xEE] State.reset).2)) := ⟨⟨rfl, rfl⟩, rfl⟩
theorem witness_LatchIsStickyUntilReset : stopped.fault = some (.unrecognizedOpcode 0 0x200) ∧
    Event.reset ∉ [Event.cycle, .load [1], .tick, .setKey 15 true] ∧
    runEvents [.cycle, .load [1], .tick, .setKey 15 true] stopped =
      .next (setKey 15 true (tick (load [1] stopped).2)) := ⟨rfl, by decide, rfl⟩
theorem witness_OnlyStoresAndDrawsWrite_memory : let s := { regs [(3, 0xFF)] with i := 0x300 }.withFetchWord 16 0xF333
    step s = .next (after s) ∧ (after s).readByte 0x300 ≠ s.readByte 0x300 := ⟨rfl, by decide⟩
theorem witness_OnlyStoresAndDrawsWrite_display : let s := sprite.withFetchWord 16 0xD121
    step s = .next (after s) ∧ (after s).cell 31 63 ≠ s.cell 31 63 := ⟨rfl, by decide⟩
theorem witness_OnlyNamedInstructionsWrite_index : let s := State.reset.withFetchWord 16 0xAFFF
    step s = .next (after s) ∧ (after s).i ≠ s.i := ⟨rfl, by decide⟩
theorem witness_OnlyNamedInstructionsWrite_delay : let s := (regs [(1, 1)]).withFetchWord 16 0xF115
    step s = .next (after s) ∧ (after s).dt ≠ s.dt := ⟨rfl, by decide⟩
theorem witness_OnlyNamedInstructionsWrite_sound : let s := (regs [(1, 1)]).withFetchWord 16 0xF118
    step s = .next (after s) ∧ (after s).st ≠ s.st := ⟨rfl, by decide⟩
theorem witness_OnlyNamedCauses_stack : let s := State.reset.withFetchWord 16 0x2300
    step s = .next (after s) ∧ (after s).sp ≠ s.sp ∧ (after s).stack ≠ s.stack := ⟨rfl, by decide⟩
theorem witness_OnlyNamedCauses_wait : let s := State.reset.withFetchWord 16 0xF30A
    step s = .next (after s) ∧ s.wait = false ∧ (after s).wait = true := ⟨rfl, rfl, by decide⟩
theorem witness_OnlyNamedCauses_latch : step State.reset = .next stopped ∧ stopped.fault ≠ State.reset.fault :=
  ⟨rfl, by decide⟩
theorem witness_RegistersOutsideDestinationAreKept : exec (.ldImm 15 0xFF) State.reset = .next (State.reset.writeReg 15 0xFF) := rfl
theorem witness_FlagIsZeroOrOne : Instr.writesFlag (.addReg 15 1) = true ∧
    exec (.addReg 15 1) (regs [(15, 1), (1, 0xFF)]) =
      .next ((regs [(15, 1), (1, 0xFF)]).writeResultFlag .flagLast 15 0x00 true) := ⟨rfl, rfl⟩
theorem witness_EachOperationWritesOnlyItsParts : (0x1FF : Nat) < 0x200 ∧ step State.reset = .next stopped := ⟨by decide, rfl⟩
theorem witness_ReturnPops : ({ State.reset with sp := 1 } : State).sp.val = (0 : Fin 16).val + 1 ∧
    ({ State.reset with sp := 16 } : State).sp.val = (15 : Fin 16).val + 1 := by decide
theorem witness_ReturnUnderflows : State.reset.sp = 0 := rfl
theorem witness_CallPushes : State.reset.sp.val = (0 : Fin 16).val ∧
    ({ State.reset with sp := 15 } : State).sp.val = (15 : Fin 16).val := by decide
theorem witness_CallOverflows : ({ State.reset with sp := 16 } : State).sp = 16 := rfl
theorem witness_CallThenReturnRestoresPc : ({ State.reset with sp := 15 } : State).sp.val < 16 := by decide
theorem witness_SkipCycle_immediate : ((regs [(3, 0x2A)]).withFetchWord 16 0x332A).executes (.seImm 3 0x2A) ∧
    (State.reset.withFetchWord 16 0x432A).executes (.sneImm 3 0x2A) := ⟨⟨rfl, rfl⟩, ⟨rfl, rfl⟩⟩
theorem witness_SkipCycle_register : ((regs [(1, 7), (2, 7)]).withFetchWord 16 0x5120).executes (.seReg 1 2) ∧
    ((regs [(1, 7), (2, 8)]).withFetchWord 16 0x9120).executes (.sneReg 1 2) := ⟨⟨rfl, rfl⟩, ⟨rfl, rfl⟩⟩
theorem witness_FinishedStateIsFixed : (State.reset.withFetchWord 16 0x1200).finished ∧
    ({ State.reset with pc := 0xFFF }.withFetchWord 16 0x1FFF).finished := ⟨⟨by decide, rfl, rfl⟩, ⟨by decide, rfl, rfl⟩⟩
theorem witness_destination_is_not_flag : (14 : Reg) ≠ 15 := by decide
theorem witness_RandomIsMaskedDraw : (0x0F : Byte).getLsbD 7 = false := by decide
theorem witness_BlockStoreCopiesRegisters : (15 : Reg) ≤ 15 ∧ ∀ j, j < 16 → reduce 0x410 ≠ reduce (0x400 + j) := by decide
theorem witness_BcdStoresDecimalDigits : ∀ j, j < 3 → reduce 1 ≠ reduce (0xFFE + j) := by decide
theorem witness_BlockLoadCopiesMemory : (0 : Reg) ≤ 14 ∧ (14 : Reg) ≤ 14 ∧ (14 : Reg) < 15 := by decide
theorem witness_BlockStoreThenLoadRoundTrips :
    let s := { regs [(0, 11), (3, 44)] with i := 0xFFE }
    let t := s.storeBytes 0xFFE [11, 0, 0, 44]
    let u := { t with v := State.reset.v }
    exec (.ldMemVx 3) s = .next t ∧ u.i = s.i ∧
      (∀ j : Reg, j ≤ 3 → u.readByte (s.i.toNat + j.val) = t.readByte (s.i.toNat + j.val)) ∧
      exec (.ldVxMem 3) u = .next (u.loadRegs [0, 1, 2, 3]) := ⟨rfl, rfl, fun _ _ => rfl, rfl⟩
theorem witness_StoredBytesAreFetched :
    exec (.ldMemVx 15) State.reset = .next (State.reset.storeBytes 0 (List.replicate 16 0)) ∧ (14 : Reg) < 15 := ⟨rfl, by decide⟩
theorem witness_Draw_covered : sprite.covers 1 2 1 31 63 ∧ sprite.covers 1 2 1 31 6 :=
  ⟨⟨0, 0, by decide, by decide, by decide, by decide, by decide⟩, ⟨0, 7, by decide, by decide, by decide, by decide, by decide⟩⟩
theorem witness_Draw_not_covered : ¬ sprite.covers 1 2 0 31 63 := fun ⟨_, _, h, _⟩ => absurd h (Nat.not_lt_zero _)
theorem witness_Draw_collision : ∃ yy xx, (sprite.setCell 31 6 true).covers 1 2 1 yy xx ∧ (sprite.setCell 31 6 true).cell yy xx = true :=
  ⟨31, 6, ⟨0, 7, by decide, by decide, by decide, by decide, by decide⟩, by decide⟩
theorem witness_Draw_no_collision : ∀ yy xx, sprite.covers 1 2 0 yy xx → sprite.cell yy xx = false :=
  fun _ _ ⟨_, _, h, _⟩ => absurd h (Nat.not_lt_zero _)
theorem witness_DrawTwice : exec (.drw 1 2 1) sprite = .next ((sprite.writeReg 15 0).drawRows 63 31 0x300 1) := rfl
theorem witness_KeySkips : (∃ k : Fin 16, k.val = ((setKey 15 true (regs [(2, 15)])).readReg 2).toNat ∧
    (setKey 15 true (regs [(2, 15)])).key.get k = true) ∧
    ¬ ∃ k : Fin 16, k.val = ((setKey 15 true (regs [(2, 16)])).readReg 2).toNat ∧
      (setKey 15 true (regs [(2, 16)])).key.get k = true := by decide
theorem witness_HeldKeyDoesNotEndWait : ((setKey 4 true State.reset).withFetchWord 16 0xF30A).executes (.ldVxK 3) := ⟨rfl, rfl⟩
theorem witness_PressedKeyEndsWait : (waiting []).fault = none ∧ (waiting []).wait = true ∧
    (waiting []).kprev.get 15 = false ∧ (∀ j : Fin 16, j ≠ 15 → ¬ ((waiting []).key.get j = true ∧ (waiting []).kprev.get j = false)) ∧
    (waiting []).kprev.get 0 = false := by decide
theorem witness_ResetState_font_edge : (79 : Nat) < 80 ∧ 80 ≤ (80 : Nat) ∧ (4095 : Nat) < 4096 := by decide
theorem witness_Load : (List.replicate 3584 (0 : Byte)).length ≤ 3584 ∧ 3584 < (List.replicate 3585 (0 : Byte)).length := by
  rw [List.length_replicate, List.length_replicate]; decide
theorem witness_SetKey : (15 : Fin 16).val = 15 ∧ 16 ≤ 16 := by decide
theorem witness_HighIndexBitsAreUnobservable :
    let s := { regs [(0, 1)] with i := 0x0FFF }.withFetchWord 16 0xF01E
    let s' := { s with i := 0xFFFF }
    SameButHighIndexBits s s' ∧ step s = .next (after s) ∧ step s' = .next (after s') ∧ (after s).i = 0x1000 ∧ (after s').i = 0 :=
  ⟨⟨0xFFFF, rfl, by decide⟩, rfl, rfl, by decide, by decide⟩
theorem witness_DeadStackCellsAreUnobservable :
    let s := { State.reset with sp := 15 }.withFetchWord 16 0x00EE
    let s' := { s with stack := s.stack.set 15 0x222 }
    SameButDeadStack s s' ∧ step s = .next (after s) ∧ step s' = .next (after s') :=
  ⟨⟨_, rfl, by decide⟩, rfl, rfl⟩

end Sys2Proof.Tests
end

/-! Laws of fatal `RET` and `CALL` and of the cycles that execute no instruction: with `execRet_of_pos`, `execCall_of_lt` and
`step_of_executes` they give every case of the two instructions and of `Cycle()` (R63, R81, R83). -/

namespace Sys2Proof.Machine

theorem execRet_of_zero {s : State} (h : s.sp.val = 0) : execRet s = .next (s.raise (.stackUnderflow s.sp s.instrAddr)) := if_pos h

theorem execCall_of_full {s : State} (nnn : Addr) (h : s.sp.val = 16) :
    execCall nnn s = .next (s.raise (.stackOverflow s.sp s.instrAddr)) := if_pos h

theorem step_of_halted {s : State} (h : s.fault.isSome = true) : step s = .next s := if_pos h

theorem step_of_waiting {s : State} (hfault : s.fault = none) (hwait : s.wait = true) : step s = .next s.keyPoll := by
  rw [step, cycle, hfault, if_neg (by simp), if_pos hwait]

theorem step_of_unrecognized {s : State} (hrun : s.running = true) (h : unrecognized s.fetchWord = true) :
    step s = .next (s.skip.raise (.unrecognizedOpcode s.fetchWord s.pc)) := by
  obtain ⟨hfault, hwait⟩ := (running_iff s).1 hrun
  rw [step, cycle, hfault, if_neg (by simp), if_neg (by simp [hwait]), execute, (unrecognized_iff _).1 h, State.instrAddr,
    State.skip_pc, BitVec.add_sub_cancel]

end Sys2Proof.Machine

/-! Frames: which parts of the state (R10) each shared operation and each instruction may write, and what a whole cycle may write. -/

namespace Sys2Proof.Machine

/-! ### Kept parts -/

/-- The fields behind a part are equal in both states: what the field laws of the operations establish. -/
def Part.sameFields (p : Part) (s t : State) : Prop :=
  match p with
  | .regs => t.v = s.v
  | .mem => t.mem = s.mem
  | .display => t.fb = s.fb
  | p => p.kept s t

theorem Part.kept_of_sameFields {p : Part} {s t : State} (h : p.sameFields s t) : p.kept s t := by
  cases p with
  | regs => exact State.readReg_congr h
  | mem => exact State.readByte_congr h
  | display => exact State.cell_congr h
  | _ => exact h

theorem Part.kept_refl (p : Part) (s : State) : p.kept s s := by
  cases p with
  | keyWait => exact ⟨rfl, rfl, rfl⟩
  | regs | mem => exact fun _ => rfl
  | display => exact fun _ _ => rfl
  | _ => rfl

theorem Part.kept_trans {p : Part} {s t u : State} (h₁ : p.kept s t) (h₂ : p.kept t u) : p.kept s u := by
  cases p with
  | keyWait =>
    obtain ⟨hwait, hwreg, hkprev⟩ := h₁
    obtain ⟨hwait', hwreg', hkprev'⟩ := h₂
    exact ⟨hwait'.trans hwait, hwreg'.trans hwreg, hkprev'.trans hkprev⟩
  | regs | mem => exact fun a => (h₂ a).trans (h₁ a)
  | display => exact fun yy xx => (h₂ yy xx).trans (h₁ yy xx)
  | _ => exact Eq.trans h₂ h₁

/-- A frame from the field laws: part by part, the default proof rewrites with the `@[simp]` law of the part's field. -/
theorem keepsAllBut_of_sameFields {ps : List Part} {s t : State}
    (h : ∀ p, p ∉ ps → p.sameFields s t := by
      intro p hp
      cases p <;> simp [Part.sameFields, Part.kept] at hp ⊢) :
    KeepsAllBut ps s t := fun p hp => Part.kept_of_sameFields (h p hp)

theorem KeepsAllBut.mono {ps qs : List Part} {s t : State} (h : KeepsAllBut ps s t) (hsub : ps ⊆ qs) :
    KeepsAllBut qs s t := fun p hp => h p fun hmem => hp (hsub hmem)

theorem KeepsAllBut.refl (ps : List Part) (s : State) : KeepsAllBut ps s s := fun p _ => p.kept_refl s

theorem KeepsAllBut.trans {ps : List Part} {s t u : State} (h₁ : KeepsAllBut ps s t) (h₂ : KeepsAllBut ps t u) :
    KeepsAllBut ps s u := fun p hp => Part.kept_trans (h₁ p hp) (h₂ p hp)

/-! ### Shared operations -/

theorem State.keepsAllBut_writeReg (s : State) (r : Reg) (b : Byte) : KeepsAllBut [.regs] s (s.writeReg r b) :=
  keepsAllBut_of_sameFields

theorem State.keepsAllBut_writeResultFlag (s : State) (x : Reg) (res : Byte) (flag : Bool) :
    KeepsAllBut [.regs] s (s.writeResultFlag Policy.flagWriteOrder x res flag) := keepsAllBut_of_sameFields

theorem State.keepsAllBut_loadRegs (s : State) (js : List Reg) : KeepsAllBut [.regs] s (s.loadRegs js) :=
  keepsAllBut_of_sameFields

theorem State.keepsAllBut_storeBytes (s : State) (a : Nat) (bs : List Byte) : KeepsAllBut [.mem] s (s.storeBytes a bs) :=
  keepsAllBut_of_sameFields

theorem State.keepsAllBut_setIndex (s : State) (w : Word) : KeepsAllBut [.index] s (s.setIndex w) :=
  keepsAllBut_of_sameFields

theorem State.keepsAllBut_setPc (s : State) (w : Word) : KeepsAllBut [.pc] s (s.setPc w) := keepsAllBut_of_sameFields

theorem State.keepsAllBut_skip (s : State) : KeepsAllBut [.pc] s s.skip := s.keepsAllBut_setPc _

theorem State.keepsAllBut_skipIf (s : State) (c : Bool) : KeepsAllBut [.pc] s (s.skipIf c) := keepsAllBut_of_sameFields

theorem State.keepsAllBut_push (s : State) (w : Word) : KeepsAllBut [.stackCells, .sp] s (s.push w) :=
  keepsAllBut_of_sameFields

theorem State.keepsAllBut_pop (s : State) : KeepsAllBut [.sp, .pc] s s.pop := keepsAllBut_of_sameFields

theorem State.keepsAllBut_raise (s : State) (e : FatalError) : KeepsAllBut [.latch] s (s.raise e) :=
  keepsAllBut_of_sameFields

theorem State.keepsAllBut_clearDisplay (s : State) : KeepsAllBut [.display] s s.clearDisplay := keepsAllBut_of_sameFields

theorem State.keepsAllBut_drawRows (s : State) (x0 y0 base n : Nat) :
    KeepsAllBut [.regs, .display] s (s.drawRows x0 y0 base n) := keepsAllBut_of_sameFields

theorem State.keepsAllBut_setDelay (s : State) (b : Byte) : KeepsAllBut [.delay] s (s.setDelay b) :=
  keepsAllBut_of_sameFields

theorem State.keepsAllBut_setSound (s : State) (b : Byte) : KeepsAllBut [.sound] s (s.setSound b) :=
  keepsAllBut_of_sameFields

theorem State.keepsAllBut_armKeyWait (s : State) (x : Reg) : KeepsAllBut [.keyWait] s (s.armKeyWait x) :=
  keepsAllBut_of_sameFields

theorem State.keepsAllBut_keyPoll (s : State) : KeepsAllBut [.regs, .keyWait] s s.keyPoll := keepsAllBut_of_sameFields

theorem State.keepsAllBut_countDraw (s : State) : KeepsAllBut [.draws] s s.countDraw := keepsAllBut_of_sameFields

end Sys2Proof.Machine

namespace Sys2Proof

/-! ### Instructions -/

/-- The parts of the state an instruction may write while it executes, the advance of `pc` by fetch not counted. -/
def Instr.writtenParts : Instr → List Machine.Part
  | .cls => [.display]
  | .ret => [.pc, .sp, .latch]
  | .call _ => [.pc, .stackCells, .sp, .latch]
  | .jp _ | .jpV0 _ | .seImm _ _ | .sneImm _ _ | .seReg _ _ | .sneReg _ _ | .skp _ | .sknp _ => [.pc]
  | .ldImm _ _ | .addImm _ _ | .ldReg _ _ | .orReg _ _ | .andReg _ _ | .xorReg _ _ | .addReg _ _ | .sub _ _ | .shr _ _
  | .subn _ _ | .shl _ _ | .ldVxDt _ | .ldVxMem _ => [.regs]
  | .rnd _ _ => [.regs, .draws]
  | .drw _ _ _ => [.regs, .display]
  | .ldI _ | .addIVx _ | .ldFVx _ => [.index]
  | .ldDtVx _ => [.delay]
  | .ldStVx _ => [.sound]
  | .ldVxK _ => [.keyWait]
  | .ldBVx _ | .ldMemVx _ => [.mem]

end Sys2Proof

namespace Sys2Proof.Machine

theorem execRet_keepsAllBut {s t : State} (h : execRet s = .next t) : KeepsAllBut [.pc, .sp, .latch] s t := by
  obtain hempty | hpos := Nat.eq_zero_or_pos s.sp.val
  · rw [execRet_of_zero hempty] at h
    exact outcome_next_inj.1 h ▸ (s.keepsAllBut_raise _).mono (by simp)
  · rw [execRet_of_pos hpos] at h
    exact outcome_next_inj.1 h ▸ s.keepsAllBut_pop.mono (by simp)

theorem execCall_keepsAllBut {nnn : Addr} {s t : State} (h : execCall nnn s = .next t) :
    KeepsAllBut [.pc, .stackCells, .sp, .latch] s t := by
  by_cases hfull : s.sp.val = 16
  · rw [execCall_of_full nnn hfull] at h
    exact outcome_next_inj.1 h ▸ (s.keepsAllBut_raise _).mono (by simp)
  · rw [execCall_of_lt nnn (by omega)] at h
    exact outcome_next_inj.1 h ▸
      ((s.keepsAllBut_push _).mono (by simp)).trans (((s.push _).keepsAllBut_setPc _).mono (by simp))

/-- The frame of every instruction: each part outside `writtenParts` reads as before. -/
theorem exec_keepsAllBut {i : Instr} {s t : State} (h : exec i s = .next t) : KeepsAllBut i.writtenParts s t := by
  cases i with
  | ret => exact execRet_keepsAllBut h
  | call nnn => exact execCall_keepsAllBut h
  | cls => exact outcome_next_inj.1 h ▸ s.keepsAllBut_clearDisplay
  | jp | jpV0 => exact outcome_next_inj.1 h ▸ s.keepsAllBut_setPc _
  | seImm | sneImm | seReg | sneReg | skp | sknp => exact outcome_next_inj.1 h ▸ s.keepsAllBut_skipIf _
  | ldImm | addImm | ldReg | orReg | andReg | xorReg | ldVxDt => exact outcome_next_inj.1 h ▸ s.keepsAllBut_writeReg _ _
  | addReg | sub | shr | subn | shl => exact outcome_next_inj.1 h ▸ s.keepsAllBut_writeResultFlag _ _ _
  | rnd x nn =>
    exact outcome_next_inj.1 h ▸ ((s.keepsAllBut_writeReg x _).mono (by simp [Instr.writtenParts])).trans
      ((State.keepsAllBut_countDraw _).mono (by simp [Instr.writtenParts]))
  | drw x y n =>
    exact outcome_next_inj.1 h ▸ ((s.keepsAllBut_writeReg flagReg 0).mono (by simp [Instr.writtenParts])).trans
      (State.keepsAllBut_drawRows _ _ _ _ _)
  | ldI | addIVx | ldFVx => exact outcome_next_inj.1 h ▸ s.keepsAllBut_setIndex _
  | ldDtVx => exact outcome_next_inj.1 h ▸ s.keepsAllBut_setDelay _
  | ldStVx => exact outcome_next_inj.1 h ▸ s.keepsAllBut_setSound _
  | ldVxK => exact outcome_next_inj.1 h ▸ s.keepsAllBut_armKeyWait _
  | ldBVx | ldMemVx => exact outcome_next_inj.1 h ▸ s.keepsAllBut_storeBytes _ _
  | ldVxMem => exact outcome_next_inj.1 h ▸ s.keepsAllBut_loadRegs _

/-! ### The cycle -/

/-- Why a cycle may have written a part: a poll, an executed instruction that may write it, or an unrecognized word; else the
part is kept. -/
theorem step_keeps_or_cause {s t : State} (h : step s = .next t) (p : Part) :
    p.kept s t ∨ (s.wait = true ∧ p ∈ [.regs, .keyWait]) ∨ (∃ i, s.executes i ∧ (p = .pc ∨ p ∈ i.writtenParts)) ∨
      (s.running = true ∧ unrecognized s.fetchWord = true ∧ p ∈ [.pc, .latch]) := by
  obtain ⟨-, rfl⟩ | ⟨-, hwait, rfl⟩ | ⟨i, hi, hexec⟩ | ⟨hrun, hword, rfl⟩ := step_cases h
  · exact .inl (p.kept_refl _)
  · by_cases hp : p ∈ [.regs, .keyWait]
    · exact .inr (.inl ⟨hwait, hp⟩)
    · exact .inl (s.keepsAllBut_keyPoll p hp)
  · by_cases hp : p = .pc ∨ p ∈ i.writtenParts
    · exact .inr (.inr (.inl ⟨i, hi, hp⟩))
    · obtain ⟨hpc, hwritten⟩ := not_or.1 hp
      exact .inl (Part.kept_trans (s.keepsAllBut_skip p (by simpa using hpc)) (exec_keepsAllBut hexec p hwritten))
  · by_cases hp : p ∈ [.pc, .latch]
    · exact .inr (.inr (.inr ⟨hrun, hword, hp⟩))
    · exact .inl ((s.keepsAllBut_skip.mono (by simp)).trans ((s.skip.keepsAllBut_raise _).mono (by simp)) p hp)

/-- A part that neither the poll nor fetch nor a fatal word writes changes only through an executed instruction. -/
theorem executes_writer_of_not_kept {s t : State} {p : Part} (h : step s = .next t) (hne : ¬ p.kept s t)
    (hp : p ∉ [.regs, .keyWait, .pc, .latch] := by simp) : ∃ i, s.executes i ∧ p ∈ i.writtenParts := by
  simp only [List.mem_cons, List.not_mem_nil, or_false, not_or] at hp
  obtain ⟨hregs, hkeyWait, hpc, hlatch⟩ := hp
  obtain hk | ⟨-, hmem⟩ | ⟨i, hi, rfl | hmem⟩ | ⟨-, -, hmem⟩ := step_keeps_or_cause h p
  · exact absurd hk hne
  · simp [hregs, hkeyWait] at hmem
  · exact absurd rfl hpc
  · exact ⟨i, hi, hmem⟩
  · simp [hpc, hlatch] at hmem

end Sys2Proof.Machine

/-! Which instructions may write a part (R12 to R24), and the whole-machine rules that follow from the frame of a cycle. -/

namespace Sys2Proof.Machine

/-! ### The writers of each part -/

theorem eq_store_of_mem_writtenParts {i : Instr} (h : .mem ∈ i.writtenParts) : ∃ x, i = .ldBVx x ∨ i = .ldMemVx x := by
  cases i with
  | ldBVx x => exact ⟨x, .inl rfl⟩
  | ldMemVx x => exact ⟨x, .inr rfl⟩
  | _ => simp [Instr.writtenParts] at h

theorem eq_cls_or_drw_of_mem_writtenParts {i : Instr} (h : .display ∈ i.writtenParts) :
    i = .cls ∨ ∃ x y n, i = .drw x y n := by
  cases i with
  | cls => exact .inl rfl
  | drw x y n => exact .inr ⟨x, y, n, rfl⟩
  | _ => simp [Instr.writtenParts] at h

theorem eq_indexWriter_of_mem_writtenParts {i : Instr} (h : .index ∈ i.writtenParts) :
    (∃ nnn, i = .ldI nnn) ∨ ∃ x, i = .addIVx x ∨ i = .ldFVx x := by
  cases i with
  | ldI nnn => exact .inl ⟨nnn, rfl⟩
  | addIVx x => exact .inr ⟨x, .inl rfl⟩
  | ldFVx x => exact .inr ⟨x, .inr rfl⟩
  | _ => simp [Instr.writtenParts] at h

theorem eq_ldDtVx_of_mem_writtenParts {i : Instr} (h : .delay ∈ i.writtenParts) : ∃ x, i = .ldDtVx x := by
  cases i with
  | ldDtVx x => exact ⟨x, rfl⟩
  | _ => simp [Instr.writtenParts] at h

theorem eq_ldStVx_of_mem_writtenParts {i : Instr} (h : .sound ∈ i.writtenParts) : ∃ x, i = .ldStVx x := by
  cases i with
  | ldStVx x => exact ⟨x, rfl⟩
  | _ => simp [Instr.writtenParts] at h

theorem eq_ldVxK_of_mem_writtenParts {i : Instr} (h : .keyWait ∈ i.writtenParts) : ∃ x, i = .ldVxK x := by
  cases i with
  | ldVxK x => exact ⟨x, rfl⟩
  | _ => simp [Instr.writtenParts] at h

theorem eq_call_of_stackCells_mem_writtenParts {i : Instr} (h : .stackCells ∈ i.writtenParts) : ∃ nnn, i = .call nnn := by
  cases i with
  | call nnn => exact ⟨nnn, rfl⟩
  | _ => simp [Instr.writtenParts] at h

/-- `sp` and the latch have the same writers among the instructions (R16, R150). -/
theorem eq_ret_or_call_of_mem_writtenParts {i : Instr} (h : .sp ∈ i.writtenParts ∨ .latch ∈ i.writtenParts) :
    i = .ret ∨ ∃ nnn, i = .call nnn := by
  cases i with
  | ret => exact .inl rfl
  | call nnn => exact .inr ⟨nnn, rfl⟩
  | _ => simp [Instr.writtenParts] at h

theorem keys_notMem_writtenParts (i : Instr) : .keys ∉ i.writtenParts := by
  cases i <;> simp [Instr.writtenParts]

/-! ### Whole-machine rules -/

/-- Settles O18: the memory and display clauses of the frame of a cycle. -/
theorem onlyStoresAndDrawsWrite : Obligations.OnlyStoresAndDrawsWrite := by
  intro s t h
  constructor
  · intro a hne
    obtain ⟨i, hi, hmem⟩ := executes_writer_of_not_kept (p := .mem) h fun hk => hne (hk a)
    obtain ⟨x, rfl | rfl⟩ := eq_store_of_mem_writtenParts hmem
    · exact ⟨x, .inl hi⟩
    · exact ⟨x, .inr hi⟩
  · intro yy xx hne
    obtain ⟨i, hi, hmem⟩ := executes_writer_of_not_kept (p := .display) h fun hk => hne (hk yy xx)
    obtain rfl | ⟨x, y, n, rfl⟩ := eq_cls_or_drw_of_mem_writtenParts hmem
    · exact .inl hi
    · exact .inr ⟨x, y, n, hi⟩

/-- No cycle writes a key: the keys are the host's (R19, R26). -/
theorem step_key {s t : State} (h : step s = .next t) : t.key = s.key := by
  by_contra hne
  obtain ⟨i, -, hmem⟩ := executes_writer_of_not_kept (p := .keys) h hne
  exact keys_notMem_writtenParts i hmem

/-- Settles O19: the index, timer and key clauses of the frame of a cycle. -/
theorem onlyNamedInstructionsWriteIndexAndTimers : Obligations.OnlyNamedInstructionsWriteIndexAndTimers := by
  intro s t h
  refine ⟨fun hne => ?index, fun hne => ?delay, fun hne => ?sound, step_key h⟩
  case index =>
    obtain ⟨i, hi, hmem⟩ := executes_writer_of_not_kept (p := .index) h hne
    obtain ⟨nnn, rfl⟩ | ⟨x, rfl | rfl⟩ := eq_indexWriter_of_mem_writtenParts hmem
    · exact .inl ⟨nnn, hi⟩
    · exact .inr ⟨x, .inl hi⟩
    · exact .inr ⟨x, .inr hi⟩
  case delay =>
    obtain ⟨i, hi, hmem⟩ := executes_writer_of_not_kept (p := .delay) h hne
    obtain ⟨x, rfl⟩ := eq_ldDtVx_of_mem_writtenParts hmem
    exact ⟨x, hi⟩
  case sound =>
    obtain ⟨i, hi, hmem⟩ := executes_writer_of_not_kept (p := .sound) h hne
    obtain ⟨x, rfl⟩ := eq_ldStVx_of_mem_writtenParts hmem
    exact ⟨x, hi⟩

/-- An executed instruction that may write `sp` or the latch is `RET` or `CALL`. -/
theorem executes_ret_or_call {s : State} {i : Instr} (hi : s.executes i)
    (h : .sp ∈ i.writtenParts ∨ .latch ∈ i.writtenParts) : s.executes .ret ∨ ∃ nnn, s.executes (.call nnn) := by
  obtain rfl | ⟨nnn, rfl⟩ := eq_ret_or_call_of_mem_writtenParts h
  · exact .inl hi
  · exact .inr ⟨nnn, hi⟩

/-- Settles O20: the stack, wait and latch clauses of the frame of a cycle; a poll, which writes the wait's fields too, needs a wait
that is already armed. -/
theorem onlyNamedCausesMoveStackWaitAndLatch : Obligations.OnlyNamedCausesMoveStackWaitAndLatch := by
  intro s t h
  refine ⟨fun hne => ?sp, fun hne => ?stack, fun hidle harmed => ?wait, fun hne => ?latch⟩
  case sp =>
    obtain ⟨i, hi, hmem⟩ := executes_writer_of_not_kept (p := .sp) h hne
    exact executes_ret_or_call hi (.inl hmem)
  case stack =>
    obtain ⟨i, hi, hmem⟩ := executes_writer_of_not_kept (p := .stackCells) h hne
    obtain ⟨nnn, rfl⟩ := eq_call_of_stackCells_mem_writtenParts hmem
    exact ⟨nnn, hi⟩
  case wait =>
    obtain ⟨hkept, -⟩ | ⟨hwait, -⟩ | ⟨i, hi, hp | hmem⟩ | ⟨-, -, hmem⟩ := step_keeps_or_cause h .keyWait
    · simp [hkept, hidle] at harmed
    · simp [hidle] at hwait
    · cases hp
    · obtain ⟨x, rfl⟩ := eq_ldVxK_of_mem_writtenParts hmem
      exact ⟨x, hi⟩
    · simp at hmem
  case latch =>
    obtain hkept | ⟨-, hmem⟩ | ⟨i, hi, hp | hmem⟩ | ⟨hrun, hword, -⟩ := step_keeps_or_cause h .latch
    · exact absurd hkept hne
    · simp at hmem
    · cases hp
    · exact .inr (executes_ret_or_call hi (.inr hmem))
    · exact .inl ⟨hrun, hword⟩

/-! ### Registers and the flag -/

theorem State.keepsRegsBut_writeReg (s : State) (x : Reg) (b : Byte) : KeepsRegsBut [x] s (s.writeReg x b) := by
  intro r hr
  rw [State.readReg_writeReg, if_neg (by simpa using hr)]

theorem State.keepsRegsBut_writeResultFlag (s : State) (x : Reg) (res : Byte) (flag : Bool) :
    KeepsRegsBut [x, 15] s (s.writeResultFlag Policy.flagWriteOrder x res flag) := by
  intro r hr
  obtain ⟨hx, hflag⟩ : r ≠ x ∧ r ≠ 15 := by simpa using hr
  rw [State.readReg_writeResultFlag, if_neg hflag, if_neg hx]

theorem State.keepsRegsBut_loadRegs (s : State) (js : List Reg) : KeepsRegsBut js s (s.loadRegs js) := by
  intro r hr
  rw [State.readReg_loadRegs, if_neg hr]

/-- A draw with its flag cleared first: the flag reports a collision, and no other register changes (R132). -/
theorem State.readReg_drawSprite (s : State) (x0 y0 base : Nat) (n : Nibble) (q : Reg) :
    ((s.writeReg flagReg 0).drawRows x0 y0 base n.toNat).readReg q =
      if q = 15 then flagByte (decide (∃ p ∈ s.spriteCells x0 y0 base n.toNat, s.cell p.1 p.2 = true)) else s.readReg q := by
  have hn : n.toNat ≤ 32 := by have := n.isLt; omega
  rw [State.drawRows_eq, State.readReg_drawCells _ _ (State.nodup_spriteCells _ _ _ _ _ hn), State.readReg_writeReg]
  change (if q = 15 ∧ ∃ p ∈ s.spriteCells x0 y0 base n.toNat, s.cell p.1 p.2 = true then 1
    else if q = 15 then 0 else s.readReg q) = _
  by_cases hq : q = 15
  · simp [hq, flagByte]
  · simp [hq]

/-- Settles O21: by the register law of each operation that writes one; the instructions with no destination keep all registers by
their frame. -/
theorem registersOutsideDestinationAreKept : Obligations.RegistersOutsideDestinationAreKept := by
  intro i s t h
  cases i with
  | ldImm | addImm | ldReg | orReg | andReg | xorReg | ldVxDt | rnd =>
    exact outcome_next_inj.1 h ▸ s.keepsRegsBut_writeReg _ _
  | addReg | sub | shr | subn | shl => exact outcome_next_inj.1 h ▸ s.keepsRegsBut_writeResultFlag _ _ _
  | drw x y n =>
    intro r hr
    rw [← outcome_next_inj.1 h, State.readReg_drawSprite, if_neg (by simpa [Instr.writtenRegs] using hr)]
  | ldVxMem x => exact outcome_next_inj.1 h ▸ s.keepsRegsBut_loadRegs _
  | _ => exact fun r _ => exec_keepsAllBut h .regs (by simp [Instr.writtenParts]) r

theorem flagByte_eq_zero_or_one (b : Bool) : flagByte b = 0 ∨ flagByte b = 1 := by
  cases b with
  | false => exact .inl rfl
  | true => exact .inr rfl

/-- Settles O22: each of the six ends with `V[0xF]` holding a flag byte, whatever `x` is. -/
theorem flagIsZeroOrOneAfterFlagInstructions : Obligations.FlagIsZeroOrOneAfterFlagInstructions := by
  intro i s t hflag h
  obtain ⟨b, hb⟩ : ∃ b, t.readReg 15 = flagByte b := by
    cases i with
    | addReg | sub | shr | subn | shl => exact outcome_next_inj.1 h ▸ ⟨_, State.readReg_writeResultFlag _ _ 15 _ _⟩
    | drw => exact outcome_next_inj.1 h ▸ ⟨_, State.readReg_drawSprite _ _ _ _ _ 15⟩
    | _ => simp [Instr.writesFlag] at hflag
  exact hb ▸ flagByte_eq_zero_or_one b

/-! ### The host's operations and the reset state -/

theorem keepsAllBut_tick (s : State) : KeepsAllBut [.delay, .sound] s (tick s) := keepsAllBut_of_sameFields

theorem keepsAllBut_setKey (k : Nat) (p : Bool) (s : State) : KeepsAllBut [.keys] s (setKey k p s) := by
  by_cases hk : k < 16
  · rw [setKey_of_lt hk]
    exact keepsAllBut_of_sameFields
  · rw [setKey_of_ge (by omega)]
    exact .refl _ s

theorem keepsAllBut_load (bytes : List Byte) (s : State) : KeepsAllBut [.mem] s (load bytes s).2 := by
  by_cases hfits : bytes.length ≤ 3584
  · rw [load_of_fits hfits]
    exact s.keepsAllBut_storeBytes _ _
  · rw [load_of_too_long (by omega)]
    exact .refl _ s

/-- An image that loads ends below the top of memory, so it does not wrap onto the addresses below 0x200 (R54, R55). -/
theorem readByte_load_below (bytes : List Byte) (s : State) {a : Nat} (ha : a < 0x200) :
    (load bytes s).2.readByte a = s.readByte a := by
  by_cases hfits : bytes.length ≤ 3584
  · rw [load_of_fits hfits]
    refine s.readByte_storeBytes_other _ _ _ fun j hj => ?_
    rw [reduce_eq, reduce_eq]
    omega
  · rw [load_of_too_long (by omega)]

/-- Settles O23: the frame of each of the host's operations, and no cycle writes a key. -/
theorem eachOperationWritesOnlyItsParts : Obligations.EachOperationWritesOnlyItsParts := fun s =>
  ⟨keepsAllBut_tick s, fun k p => keepsAllBut_setKey k p s,
    fun bytes => ⟨keepsAllBut_load bytes s, fun _ ha => readByte_load_below bytes s ha⟩, fun _ h => step_key h⟩

/-- Settles O14: no cell is listed, and the latch is empty. -/
theorem resetMeetsInvariant : Obligations.ResetMeetsInvariant := ⟨reset_mem_wf, rfl⟩

theorem length_font : font.length = 80 := rfl

/-- Where memory lists no cell, a byte is the font's or 0 (R27). -/
theorem State.readByte_of_mem_nil {s : State} (h : s.mem = []) {a : Nat} (ha : a < 4096) :
    s.readByte a = font.getD a 0 := by
  rw [State.readByte, h, Memory.read_nil, reduce_eq, Nat.mod_eq_of_lt ha, resetByte]

/-- The reset table does not mention the model's own counter. -/
theorem holdsResetTable_reset_with_draws (n : Nat) : { State.reset with draws := n }.holdsResetTable := by
  refine ⟨fun a ha => ?font, fun a ha hmax => ?zero, fun r => ?regs, rfl, rfl, rfl, fun j => ?stack, rfl, rfl,
    fun yy xx => ?display, fun k => ?keys, rfl, rfl, fun k => ?kprev, rfl⟩
  case font =>
    rw [State.readByte_of_mem_nil rfl (by omega), List.getD_eq_getElem?_getD, List.getElem?_eq_getElem ha]
    rfl
  case zero =>
    rw [State.readByte_of_mem_nil rfl hmax, List.getD_eq_default _ _ ha]
  case display => exact State.cell_clearDisplay State.reset yy xx
  all_goals simp [State.reset, State.readReg, Vector.get_eq_getElem]

/-- Settles O54: both the constructed state and the one `Reset()` answers are the reset state up to the counter. -/
theorem resetStateIsTheSpecs : Obligations.ResetStateIsTheSpecs :=
  ⟨length_font, holdsResetTable_reset_with_draws 0, fun s => ⟨rfl, holdsResetTable_reset_with_draws s.draws⟩⟩

end Sys2Proof.Machine

/-! What a program cannot observe: bits 15 to 12 of `I` (R13) and the dead stack cells (R15). One simulation carries both: a state
beside its variant, in which `I` and the stack hold other values that agree where they matter, steps to a state beside such a
variant of it, and a place where the two did not differ still does not. -/

namespace Sys2Proof.Machine

/-! ### Variants of a state -/

/-- `s` with `w` in `I` and `st` in the stack. -/
def State.variant (s : State) (w : Word) (st : Vector Word 16) : State := { s with i := w, stack := st }

/-- `w` and `st` agree with `I` and the stack of `s` where a program can look: modulo 4096 (R41) and below `sp` (R15). -/
structure State.AgreesWhereRead (s : State) (w : Word) (st : Vector Word 16) : Prop where
  index : w.toNat % 4096 = s.i.toNat % 4096
  live : ∀ k (h : k < 16), k < s.sp.val → st[k] = s.stack[k]

/-- The outcome `o` of the variant of `s` is an agreeing variant of `t`, with equal `I` or stack if those were equal before. -/
def VariantFollows (s t : State) (w : Word) (st : Vector Word 16) (o : Host.Outcome State Fault Refusal) : Prop :=
  ∃ w' st', o = .next (t.variant w' st') ∧ t.AgreesWhereRead w' st' ∧ (w = s.i → w' = t.i) ∧ (st = s.stack → st' = t.stack)

section
variable {s t : State} {w : Word} {st : Vector Word 16} {o : Host.Outcome State Fault Refusal}

/-- Where `I`, the stack and `sp` do not move, the same variant goes on agreeing. -/
theorem VariantFollows.of_kept (ha : s.AgreesWhereRead w st) (hi : t.i = s.i) (hstack : t.stack = s.stack) (hsp : t.sp = s.sp)
    (ho : o = .next (t.variant w st)) : VariantFollows s t w st o := by
  refine ⟨w, st, ho, ⟨hi ▸ ha.index, fun k hk hlt => ?_⟩, fun h => h.trans hi.symm, fun h => h.trans hstack.symm⟩
  rw [hsp] at hlt
  simp only [hstack, ha.live k hk hlt]

/-- Where the new values of `I` agree and the stack and `sp` do not move, the variant with the new `I` agrees. -/
theorem VariantFollows.of_setIndex (ha : s.AgreesWhereRead w st) {v w' : Word} (hw : w'.toNat % 4096 = v.toNat % 4096)
    (heq : w = s.i → w' = v) (ho : o = .next ((s.setIndex v).variant w' st)) : VariantFollows s (s.setIndex v) w st o :=
  ⟨w', st, ho, ⟨hw, ha.live⟩, heq, id⟩

end

/-! ### Addresses are read modulo 4096 -/

theorem reduce_add_congr {a a' : Nat} (h : a % 4096 = a' % 4096) (j : Nat) : reduce (a + j) = reduce (a' + j) := by
  rw [reduce_eq, reduce_eq]
  omega

theorem State.readByte_add_congr (s : State) {a a' : Nat} (h : a % 4096 = a' % 4096) (j : Nat) :
    s.readByte (a + j) = s.readByte (a' + j) := by
  rw [State.readByte, reduce_add_congr h, State.readByte]

theorem State.storeBytes_congr (s : State) {a a' : Nat} (h : a % 4096 = a' % 4096) (bs : List Byte) :
    s.storeBytes a bs = s.storeBytes a' bs := by
  induction bs generalizing s a a' with
  | nil => rfl
  | cons b bs ih =>
    have hbyte : s.writeByte a b = s.writeByte a' b := by
      rw [State.writeByte, show reduce a = reduce a' from h, State.writeByte]
    have hnext : (a + 1) % 4096 = (a' + 1) % 4096 := by omega
    rw [State.storeBytes, State.storeBytes, hbyte, ih _ hnext]

theorem State.spriteCells_congr (s : State) (x0 y0 : Nat) {base base' : Nat} (h : base % 4096 = base' % 4096) (n : Nat) :
    s.spriteCells x0 y0 base n = s.spriteCells x0 y0 base' n := by
  simp only [State.spriteCells, s.readByte_add_congr h]

/-! ### The shared operations on a variant -/

theorem State.skipIf_variant (s : State) (w : Word) (st : Vector Word 16) (c : Bool) :
    (s.variant w st).skipIf c = (s.skipIf c).variant w st := by
  cases c <;> rfl

theorem State.storeBytes_variant (s : State) (w : Word) (st : Vector Word 16) (a : Nat) (bs : List Byte) :
    (s.variant w st).storeBytes a bs = (s.storeBytes a bs).variant w st := by
  induction bs generalizing s a with
  | nil => rfl
  | cons b bs ih => exact ih (s.writeByte a b) (a + 1)

theorem State.loadRegs_variant (s : State) {w : Word} (hw : w.toNat % 4096 = s.i.toNat % 4096) (st : Vector Word 16)
    (js : List Reg) : (s.variant w st).loadRegs js = (s.loadRegs js).variant w st := by
  induction js generalizing s with
  | nil => rfl
  | cons j js ih =>
    have hbyte : (s.variant w st).readByte (w.toNat + j.val) = s.readByte (s.i.toNat + j.val) := s.readByte_add_congr hw j.val
    rw [State.loadRegs, State.loadRegs, ← hbyte]
    exact ih (s.writeReg j _) hw

theorem State.drawPixel_variant (s : State) (w : Word) (st : Vector Word 16) (py : Fin 32) (px : Fin 64) :
    (s.variant w st).drawPixel py px = (s.drawPixel py px).variant w st := by
  have hcell : (s.variant w st).cell py px = s.cell py px := rfl
  rw [State.drawPixel, State.drawPixel, hcell]
  cases s.cell py px <;> rfl

theorem State.drawCells_variant (s : State) (w : Word) (st : Vector Word 16) (cs : List (Fin 32 × Fin 64)) :
    (s.variant w st).drawCells cs = (s.drawCells cs).variant w st := by
  induction cs generalizing s with
  | nil => rfl
  | cons p cs ih => rw [State.drawCells_cons, State.drawPixel_variant, ih, State.drawCells_cons]

theorem State.drawRows_variant (s : State) (w : Word) (st : Vector Word 16) (x0 y0 : Nat) {base base' : Nat}
    (h : base % 4096 = base' % 4096) (n : Nat) :
    (s.variant w st).drawRows x0 y0 base n = (s.drawRows x0 y0 base' n).variant w st := by
  have hcells : (s.variant w st).spriteCells x0 y0 base n = s.spriteCells x0 y0 base n := rfl
  rw [State.drawRows_eq, State.drawRows_eq, hcells, s.spriteCells_congr x0 y0 h, State.drawCells_variant]

theorem State.keyPoll_variant (s : State) (w : Word) (st : Vector Word 16) :
    (s.variant w st).keyPoll = s.keyPoll.variant w st := by
  have hhit : (s.variant w st).firstHit Policy.keyWaitMode = s.firstHit Policy.keyWaitMode := rfl
  rw [State.keyPoll, State.keyPoll, hhit]
  cases s.firstHit Policy.keyWaitMode <;> rfl

/-! ### The instructions on a variant -/

section
variable {s t : State} {w : Word} {st : Vector Word 16}

/-- An instruction that does not write `I` and does not move `sp` does the same on a variant. -/
theorem exec_variant_of_not_written {i : Instr} (hindex : .index ∉ i.writtenParts) (hsp : .sp ∉ i.writtenParts)
    (hw : w.toNat % 4096 = s.i.toNat % 4096) (h : exec i s = .next t) :
    exec i (s.variant w st) = .next (t.variant w st) := by
  cases i with
  | ldI | addIVx | ldFVx => simp [Instr.writtenParts] at hindex
  | ret | call => simp [Instr.writtenParts] at hsp
  | seImm | sneImm | seReg | sneReg | skp | sknp =>
    exact outcome_next_inj.1 h ▸ congrArg _ (s.skipIf_variant w st _)
  | drw =>
    exact outcome_next_inj.1 h ▸ congrArg _ ((s.writeReg flagReg 0).drawRows_variant w st _ _ hw _)
  | ldBVx | ldMemVx =>
    exact outcome_next_inj.1 h ▸ congrArg _ (((s.variant w st).storeBytes_congr hw _).trans (s.storeBytes_variant w st _ _))
  | ldVxMem =>
    exact outcome_next_inj.1 h ▸ congrArg _ (s.loadRegs_variant hw st _)
  | _ =>
    rw [← outcome_next_inj.1 h]
    rfl

/-- `RET` reads the cell below `sp`, which is live. -/
theorem execRet_variant (ha : s.AgreesWhereRead w st) (h : execRet s = .next t) :
    VariantFollows s t w st (execRet (s.variant w st)) := by
  by_cases hempty : s.sp.val = 0
  · rw [execRet_of_zero hempty] at h
    obtain rfl := outcome_next_inj.1 h
    exact .of_kept ha rfl rfl rfl (execRet_of_zero hempty)
  · have hpos : 0 < s.sp.val := by omega
    have htop : st[s.sp.val - 1] = s.stack[s.sp.val - 1] := ha.live _ (by omega) (by omega)
    rw [execRet_of_pos hpos, State.pop_of_pos s hpos, ← htop] at h
    obtain rfl := outcome_next_inj.1 h
    refine ⟨w, st, ?_, ⟨ha.index, fun k hk hlive => ha.live k hk ?_⟩, id, id⟩
    · exact (execRet_of_pos (s := s.variant w st) hpos).trans (congrArg _ (State.pop_of_pos (s.variant w st) hpos))
    · exact Nat.lt_of_lt_of_le hlive (Nat.sub_le _ 1)

/-- `CALL` writes the same return address to the same cell, which becomes live. -/
theorem execCall_variant (nnn : Addr) (ha : s.AgreesWhereRead w st) (h : execCall nnn s = .next t) :
    VariantFollows s t w st (execCall nnn (s.variant w st)) := by
  by_cases hfull : s.sp.val = 16
  · rw [execCall_of_full nnn hfull] at h
    obtain rfl := outcome_next_inj.1 h
    exact .of_kept ha rfl rfl rfl (execCall_of_full nnn hfull)
  · have hlt : s.sp.val < 16 := by omega
    rw [execCall_of_lt nnn hlt, State.push_of_lt s _ hlt] at h
    obtain rfl := outcome_next_inj.1 h
    refine ⟨w, st.set s.sp.val s.pc hlt, ?_, ⟨ha.index, fun k hk hlive => ?_⟩, id, fun hst => by rw [hst]; rfl⟩
    · rw [execCall_of_lt (s := s.variant w st) nnn hlt, State.push_of_lt (s.variant w st) _ hlt]
      rfl
    · change (st.set s.sp.val s.pc hlt)[k] = (s.stack.set s.sp.val s.pc hlt)[k]
      rw [Vector.getElem_set, Vector.getElem_set]
      split
      · rfl
      · next hne => exact ha.live k hk (Nat.lt_of_le_of_ne (Nat.le_of_lt_succ hlive) (Ne.symm hne))

/-- `ADD I, Vx` adds modulo 2^16, so the sums agree modulo 4096. -/
theorem toNat_add_mod_congr {w v : Word} (h : w.toNat % 4096 = v.toNat % 4096) (u : Word) :
    (w + u).toNat % 4096 = (v + u).toNat % 4096 := by
  rw [BitVec.toNat_add, BitVec.toNat_add]
  omega

/-- Every instruction takes a state and an agreeing variant to a state and an agreeing variant. -/
theorem exec_variant {i : Instr} (ha : s.AgreesWhereRead w st) (h : exec i s = .next t) :
    VariantFollows s t w st (exec i (s.variant w st)) := by
  cases i with
  | ret => exact execRet_variant ha h
  | call nnn => exact execCall_variant nnn ha h
  | ldI | ldFVx =>
    rw [← outcome_next_inj.1 h]
    exact .of_setIndex ha rfl (fun _ => rfl) rfl
  | addIVx x =>
    rw [← outcome_next_inj.1 h]
    exact .of_setIndex ha (toNat_add_mod_congr ha.index (s.readRegWide x)) (fun hw => by rw [hw]) rfl
  | _ =>
    have hkept := exec_keepsAllBut h
    exact .of_kept ha (hkept .index (by simp [Instr.writtenParts])) (hkept .stackCells (by simp [Instr.writtenParts]))
      (hkept .sp (by simp [Instr.writtenParts]))
      (exec_variant_of_not_written (by simp [Instr.writtenParts]) (by simp [Instr.writtenParts]) ha.index h)

/-! ### The cycle on a variant -/

/-- The simulation: a step takes a state and an agreeing variant to a state and an agreeing variant. -/
theorem step_variant (ha : s.AgreesWhereRead w st) (h : step s = .next t) :
    VariantFollows s t w st (step (s.variant w st)) := by
  obtain ⟨hhalt, rfl⟩ | ⟨hfault, hwait, rfl⟩ | ⟨i, hi, hexec⟩ | ⟨hrun, hword, rfl⟩ := step_cases h
  · exact .of_kept ha rfl rfl rfl (step_of_halted hhalt)
  · refine .of_kept ha s.keyPoll_i s.keyPoll_stack s.keyPoll_sp ?_
    exact (step_of_waiting (s := s.variant w st) hfault hwait).trans (congrArg _ (s.keyPoll_variant w st))
  · have hvariant : (s.variant w st).executes i := hi
    rw [step_of_executes hvariant]
    exact exec_variant (s := s.skip) ⟨ha.index, ha.live⟩ hexec
  · exact .of_kept ha rfl rfl rfl (step_of_unrecognized hrun hword)

end

/-! ### The two relations -/

/-- Settles O59: the simulation at variants with the same stack. -/
theorem highIndexBitsAreUnobservable : Obligations.HighIndexBitsAreUnobservable := by
  rintro s _ t t' ⟨w, rfl, hw⟩ h h'
  obtain ⟨w', st', ho, hagree, -, hstack⟩ := step_variant (st := s.stack) ⟨hw, fun _ _ _ => rfl⟩ h
  obtain rfl := outcome_next_inj.1 (ho.symm.trans h')
  obtain rfl := hstack rfl
  exact ⟨w', rfl, hagree.index⟩

/-- Settles O60: the simulation at variants with the same `I`. -/
theorem deadStackCellsAreUnobservable : Obligations.DeadStackCellsAreUnobservable := by
  rintro s _ t t' ⟨st, rfl, hlive⟩ h h'
  obtain ⟨w', st', ho, hagree, hindex, -⟩ := step_variant (w := s.i) ⟨rfl, hlive⟩ h
  obtain rfl := outcome_next_inj.1 (ho.symm.trans h')
  obtain rfl := hindex rfl
  exact ⟨st', rfl, hagree.live⟩

end Sys2Proof.Machine

/-! Memory as the host and fetch see it (20_memory.md): a block store read back by fetch (R46, R53), `Load` (R54, R55), and every
step's next state, since no access faults (R41). -/

namespace Sys2Proof.Machine

/-! ### A stored block read back by fetch -/

/-- An address register's own wrap at 2^16 is not seen by the access, which reduces modulo 4096 (R41). -/
theorem State.readByte_word_add (s : State) (w : Word) (j k : Nat) :
    s.readByte ((w + BitVec.ofNat 16 j).toNat + k) = s.readByte (w.toNat + (j + k)) := by
  have hmod : (w + BitVec.ofNat 16 j).toNat % 4096 = (w.toNat + j) % 4096 := by
    rw [BitVec.toNat_add, BitVec.toNat_ofNat]
    omega
  rw [s.readByte_add_congr hmod, Nat.add_assoc]

/-- After a block store each stored register's byte stands at the base address plus its index (R125). -/
theorem State.readByte_storeBlock (s : State) (a : Nat) {x r : Reg} (h : r ≤ x) :
    (s.storeBytes a (s.blockBytes x)).readByte (a + r.val) = s.readReg r := by
  have hlen : r.val < (s.blockBytes x).length := by
    rw [State.length_blockBytes]
    exact Nat.lt_succ_of_le h
  have hmax : (s.blockBytes x).length ≤ 4096 := by
    rw [State.length_blockBytes]
    omega
  rw [State.readByte_storeBytes_self _ _ _ hmax _ hlen, State.getElem_blockBytes]

/-- Settles O44: both bytes of the fetched word are bytes of the stored block. -/
theorem storedBytesAreFetched : Obligations.StoredBytesAreFetched := by
  intro x j s t h hj
  rw [← outcome_next_inj.1 h]
  have hsucc : (j + 1).val = j.val + 1 := Fin.val_add_one_of_lt (Fin.lt_of_lt_of_le hj (Fin.le_last x))
  have hhigh : (s.storeBytes s.i.toNat (s.blockBytes x)).readByte (s.i + BitVec.ofNat 16 j.val).toNat = s.readReg j :=
    (State.readByte_word_add _ s.i j.val 0).trans (s.readByte_storeBlock s.i.toNat (Nat.le_of_lt hj))
  have hlow : (s.storeBytes s.i.toNat (s.blockBytes x)).readByte ((s.i + BitVec.ofNat 16 j.val).toNat + 1)
      = s.readReg (j + 1) := by
    rw [State.readByte_word_add, ← hsucc]
    exact s.readByte_storeBlock s.i.toNat (Fin.le_def.2 (hsucc ▸ hj))
  exact congrArg₂ wordOfBytes hhigh hlow

/-! ### `Load` -/

theorem State.keepsBytesBut_storeBytes (s : State) (a : Nat) (bs : List Byte) :
    KeepsBytesBut a bs.length s (s.storeBytes a bs) := s.readByte_storeBytes_other a bs

/-- Settles O55: an image that fits is one store of bytes, a longer one no store at all. -/
theorem loadCopiesOrRejectsWhole : Obligations.LoadCopiesOrRejectsWhole := by
  refine fun bytes s => ⟨fun hfits => ?_, fun hlong => load_of_too_long hlong s⟩
  have hkept := keepsAllBut_load bytes s
  rw [load_of_fits hfits] at hkept ⊢
  exact ⟨rfl, s.readByte_storeBytes_self 0x200 bytes (by omega), s.keepsBytesBut_storeBytes 0x200 bytes, hkept⟩

/-! ### Every step has its next state -/

/-- Settles O12: by the cases of `Cycle()`, halted, waiting, an instruction or an unrecognized word (R63, R66). -/
theorem stepAlwaysAnswersNext : Obligations.StepAlwaysAnswersNext := by
  intro s
  by_cases hhalted : s.fault.isSome = true
  · exact ⟨s, step_of_halted hhalted⟩
  have hfault : s.fault = none := by simpa using hhalted
  by_cases hwait : s.wait = true
  · exact ⟨s.keyPoll, step_of_waiting hfault hwait⟩
  have hrun : s.running = true := (running_iff s).2 ⟨hfault, by simpa using hwait⟩
  cases hword : decodeWord s.fetchWord with
  | ok i =>
    rw [step_of_executes ⟨hrun, hword⟩]
    exact exec_next i s.skip
  | error e =>
    rw [decodeWord_error hword, ← unrecognized_iff] at hword
    exact ⟨_, step_of_unrecognized hrun hword⟩

end Sys2Proof.Machine

/-! Encoding (30_encoding.md): the decoder and the encoder undo each other, the rows of the opcode map test fields of the word, and
the words no row selects are those of R65's table. -/

namespace Sys2Proof

/-! ### A word from its discriminating fields (R61, R67) -/

theorem class_addr_eq {op : Word} {c : Nibble} (hc : fieldC op = c) : (c ++ fieldNNN op : Word) = op :=
  hc ▸ (eq_class_addr op).symm

theorem class_literal_eq {op : Word} {c : Nibble} {nnn : Addr} (hc : fieldC op = c) (hnnn : fieldNNN op = nnn) :
    (c ++ nnn : Word) = op :=
  hnnn ▸ class_addr_eq hc

theorem class_reg_byte_eq {op : Word} {c : Nibble} (hc : fieldC op = c) : (c ++ fieldX op ++ fieldNN op : Word) = op :=
  hc ▸ (eq_class_reg_byte op).symm

theorem class_reg_literal_eq {op : Word} {c : Nibble} {nn : Byte} (h : fieldC op = c ∧ fieldNN op = nn) :
    (c ++ fieldX op ++ nn : Word) = op :=
  h.2 ▸ class_reg_byte_eq h.1

theorem nibbles_eq {op : Word} {c : Nibble} (hc : fieldC op = c) :
    (c ++ fieldX op ++ fieldY op ++ fieldN op : Word) = op :=
  hc ▸ (eq_nibbles op).symm

theorem nibbles_literal_eq {op : Word} {c n : Nibble} (h : fieldC op = c ∧ fieldN op = n) :
    (c ++ fieldX op ++ fieldY op ++ n : Word) = op :=
  h.2 ▸ nibbles_eq h.1

/-! ### Decode after encode -/

theorem decodeWord_encode (i : Instr) : decodeWord (encode i) = .ok i := by
  cases i with
  | cls | ret => rfl
  | jp | call | ldI | jpV0 | seImm | sneImm | ldImm | addImm | rnd | seReg | sneReg | drw => simp [encode, decodeWord]
  | ldReg | orReg | andReg | xorReg | addReg | sub | shr | subn | shl => simp [encode, decodeWord, decodeClass8]
  | skp | sknp => simp [encode, decodeWord, decodeClassE]
  | ldVxDt | ldVxK | ldDtVx | ldStVx | addIVx | ldFVx | ldBVx | ldMemVx | ldVxMem =>
    simp [encode, decodeWord, decodeClassF]

/-- Bytes in memory order decode as the word they make up (R46, R60). -/
theorem decodeBytes_encodeBytes_append (i : Instr) (rest : List Byte) :
    decodeBytes (encodeBytes i ++ rest) = .ok (i, rest) := by
  simp [encodeBytes, decodeBytes, decodeWord_encode, Except.map]

/-- Settles O1: on words constructor by constructor, on bytes by putting the two bytes of the word together again. -/
theorem decodeOfEncodeIsIdentity : Obligations.DecodeOfEncodeIsIdentity :=
  fun i rest => ⟨decodeWord_encode i, decodeBytes_encodeBytes_append i rest⟩

/-! ### Encode after decode, class by class -/

theorem encode_of_decodeClass0 {op : Word} {i : Instr} (hc : fieldC op = 0x0)
    (h : decodeClass0 op = .ok i) : encode i = op := by
  unfold decodeClass0 at h
  split at h <;> cases h
  case h_1 hnnn => exact class_literal_eq (nnn := 0x0E0) hc (BitVec.eq_of_toNat_eq hnnn)
  case h_2 hnnn => exact class_literal_eq (nnn := 0x0EE) hc (BitVec.eq_of_toNat_eq hnnn)

theorem encode_of_decodeClass8 {op : Word} {i : Instr} (hc : fieldC op = 0x8)
    (h : decodeClass8 op = .ok i) : encode i = op := by
  unfold decodeClass8 at h
  split at h <;> cases h
  all_goals next hn => exact nibbles_literal_eq ⟨hc, BitVec.eq_of_toNat_eq hn⟩

theorem encode_of_decodeClassE {op : Word} {i : Instr} (hc : fieldC op = 0xE)
    (h : decodeClassE op = .ok i) : encode i = op := by
  unfold decodeClassE at h
  split at h <;> cases h
  all_goals next hnn => exact class_reg_literal_eq ⟨hc, BitVec.eq_of_toNat_eq hnn⟩

theorem encode_of_decodeClassF {op : Word} {i : Instr} (hc : fieldC op = 0xF)
    (h : decodeClassF op = .ok i) : encode i = op := by
  unfold decodeClassF at h
  split at h <;> cases h
  all_goals next hnn => exact class_reg_literal_eq ⟨hc, BitVec.eq_of_toNat_eq hnn⟩

/-- A recognized word is made of its class, its operand fields and its discriminator, and those are what `encode` puts together. -/
theorem encode_of_decodeWord {op : Word} {i : Instr} (h : decodeWord op = .ok i) : encode i = op := by
  -- `h_k` is the arm of class `k - 1`; `h_17` takes no word
  unfold decodeWord at h
  split at h
  case h_1 hc => exact encode_of_decodeClass0 (BitVec.eq_of_toNat_eq hc) h
  case h_9 hc => exact encode_of_decodeClass8 (BitVec.eq_of_toNat_eq hc) h
  case h_15 hc => exact encode_of_decodeClassE (BitVec.eq_of_toNat_eq hc) h
  case h_16 hc => exact encode_of_decodeClassF (BitVec.eq_of_toNat_eq hc) h
  case h_6 hc | h_10 hc =>
    split at h <;> cases h
    next hn => exact nibbles_literal_eq ⟨BitVec.eq_of_toNat_eq hc, hn⟩
  case h_14 hc => cases h; exact nibbles_eq (BitVec.eq_of_toNat_eq hc)
  case h_2 hc | h_3 hc | h_11 hc | h_12 hc => cases h; exact class_addr_eq (BitVec.eq_of_toNat_eq hc)
  case h_4 hc | h_5 hc | h_7 hc | h_8 hc | h_13 hc => cases h; exact class_reg_byte_eq (BitVec.eq_of_toNat_eq hc)
  case h_17 => cases h

/-- Settles O2, class by class. -/
theorem encodeOfDecodeIsIdentity : Obligations.EncodeOfDecodeIsIdentity := fun _ _ => encode_of_decodeWord

/-! ### The rows of the opcode map as tests of fields (R64)

The map has four masks: the whole word, `c`, `c` and `n`, `c` and `nn`. -/

theorem OpcodeRow.selects_iff (r : OpcodeRow) (op : Word) : r.selects op = true ↔ op &&& r.mask = r.value :=
  beq_iff_eq

theorem and_mask_c (op : Word) : op &&& 0xF000 = fieldC op ++ 0#12 := by
  rw [show (0xF000 : Word) = BitVec.allOnes 4 ++ 0#12 from rfl]
  conv_lhs => rw [eq_class_addr op]
  rw [BitVec.and_append, BitVec.and_allOnes, BitVec.and_zero]

theorem and_mask_c_n (op : Word) : op &&& 0xF00F = fieldC op ++ 0#4 ++ 0#4 ++ fieldN op := by
  rw [show (0xF00F : Word) = BitVec.allOnes 4 ++ 0#4 ++ 0#4 ++ BitVec.allOnes 4 from rfl]
  conv_lhs => rw [eq_nibbles op]
  repeat rw [BitVec.and_append]
  rw [BitVec.and_allOnes, BitVec.and_zero, BitVec.and_zero, BitVec.and_allOnes]

theorem and_mask_c_nn (op : Word) : op &&& 0xF0FF = fieldC op ++ 0#4 ++ fieldNN op := by
  rw [show (0xF0FF : Word) = BitVec.allOnes 4 ++ 0#4 ++ BitVec.allOnes 8 from rfl]
  conv_lhs => rw [eq_class_reg_byte op]
  repeat rw [BitVec.and_append]
  rw [BitVec.and_allOnes, BitVec.and_zero, BitVec.and_allOnes]

section
variable {r : OpcodeRow} {op : Word}

theorem selects_iff_word (hm : r.mask = 0xFFFF := by rfl) : r.selects op = true ↔ r.value = op := by
  rw [r.selects_iff, hm]
  exact BitVec.and_allOnes.congr_left.trans eq_comm

theorem selects_iff_c {c : Nibble} (hm : r.mask = 0xF000 := by rfl) (hv : r.value = c ++ 0#12 := by rfl) :
    r.selects op = true ↔ fieldC op = c := by
  rw [r.selects_iff, hm, hv, and_mask_c]
  exact ⟨fun h => by simpa using congrArg fieldC h, fun hc => by rw [hc]⟩

theorem selects_iff_c_n {c n : Nibble} (hm : r.mask = 0xF00F := by rfl) (hv : r.value = c ++ 0#4 ++ 0#4 ++ n := by rfl) :
    r.selects op = true ↔ fieldC op = c ∧ fieldN op = n := by
  rw [r.selects_iff, hm, hv, and_mask_c_n]
  exact ⟨fun h => ⟨by simpa using congrArg fieldC h, by simpa using congrArg fieldN h⟩, fun ⟨hc, hn⟩ => by rw [hc, hn]⟩

theorem selects_iff_c_nn {c : Nibble} {nn : Byte} (hm : r.mask = 0xF0FF := by rfl)
    (hv : r.value = c ++ 0#4 ++ nn := by rfl) : r.selects op = true ↔ fieldC op = c ∧ fieldNN op = nn := by
  rw [r.selects_iff, hm, hv, and_mask_c_nn]
  exact ⟨fun h => ⟨by simpa using congrArg fieldC h, by simpa using congrArg fieldNN h⟩, fun ⟨hc, hnn⟩ => by rw [hc, hnn]⟩

end

/-- The row of an instruction's number selects its encoding, whatever the operands. -/
theorem exists_row_selects_encode (i : Instr) : ∃ r, opcodeMap[i.rowNumber - 1]? = some r ∧ r.selects (encode i) = true := by
  cases i with
  | cls | ret => exact ⟨_, rfl, rfl⟩
  | jp | call | ldI | jpV0 => exact ⟨_, rfl, (selects_iff_c).2 (fieldC_class_addr ..)⟩
  | seImm | sneImm | ldImm | addImm | rnd => exact ⟨_, rfl, (selects_iff_c).2 (fieldC_class_reg_byte ..)⟩
  | drw => exact ⟨_, rfl, (selects_iff_c).2 (fieldC_nibbles ..)⟩
  | seReg | sneReg | ldReg | orReg | andReg | xorReg | addReg | sub | shr | subn | shl =>
    exact ⟨_, rfl, (selects_iff_c_n).2 ⟨fieldC_nibbles .., fieldN_nibbles ..⟩⟩
  | skp | sknp | ldVxDt | ldVxK | ldDtVx | ldStVx | addIVx | ldFVx | ldBVx | ldMemVx | ldVxMem =>
    exact ⟨_, rfl, (selects_iff_c_nn).2 ⟨fieldC_class_reg_byte .., fieldNN_class_reg_byte ..⟩⟩

/-- A row selects only encodings of its instruction, with the operands that stand in the word's fields. -/
theorem exists_encode_eq_of_selects (op : Word) :
    ∀ r ∈ opcodeMap, r.selects op = true → ∃ i, encode i = op ∧ i.rowNumber = r.number := by
  let x := regOf (fieldX op)
  let y := regOf (fieldY op)
  let nn := fieldNN op
  let nnn := fieldNNN op
  simp only [opcodeMap, opcodeMapLow, opcodeMapHigh, List.cons_append, List.nil_append, List.forall_mem_cons]
  exact ⟨
    fun h => ⟨.cls, (selects_iff_word).1 h, rfl⟩,
    fun h => ⟨.ret, (selects_iff_word).1 h, rfl⟩,
    fun h => ⟨.jp nnn, class_addr_eq ((selects_iff_c).1 h), rfl⟩,
    fun h => ⟨.call nnn, class_addr_eq ((selects_iff_c).1 h), rfl⟩,
    fun h => ⟨.seImm x nn, class_reg_byte_eq ((selects_iff_c).1 h), rfl⟩,
    fun h => ⟨.sneImm x nn, class_reg_byte_eq ((selects_iff_c).1 h), rfl⟩,
    fun h => ⟨.seReg x y, nibbles_literal_eq ((selects_iff_c_n).1 h), rfl⟩,
    fun h => ⟨.ldImm x nn, class_reg_byte_eq ((selects_iff_c).1 h), rfl⟩,
    fun h => ⟨.addImm x nn, class_reg_byte_eq ((selects_iff_c).1 h), rfl⟩,
    fun h => ⟨.ldReg x y, nibbles_literal_eq ((selects_iff_c_n).1 h), rfl⟩,
    fun h => ⟨.orReg x y, nibbles_literal_eq ((selects_iff_c_n).1 h), rfl⟩,
    fun h => ⟨.andReg x y, nibbles_literal_eq ((selects_iff_c_n).1 h), rfl⟩,
    fun h => ⟨.xorReg x y, nibbles_literal_eq ((selects_iff_c_n).1 h), rfl⟩,
    fun h => ⟨.addReg x y, nibbles_literal_eq ((selects_iff_c_n).1 h), rfl⟩,
    fun h => ⟨.sub x y, nibbles_literal_eq ((selects_iff_c_n).1 h), rfl⟩,
    fun h => ⟨.shr x y, nibbles_literal_eq ((selects_iff_c_n).1 h), rfl⟩,
    fun h => ⟨.subn x y, nibbles_literal_eq ((selects_iff_c_n).1 h), rfl⟩,
    fun h => ⟨.shl x y, nibbles_literal_eq ((selects_iff_c_n).1 h), rfl⟩,
    fun h => ⟨.sneReg x y, nibbles_literal_eq ((selects_iff_c_n).1 h), rfl⟩,
    fun h => ⟨.ldI nnn, class_addr_eq ((selects_iff_c).1 h), rfl⟩,
    fun h => ⟨.jpV0 nnn, class_addr_eq ((selects_iff_c).1 h), rfl⟩,
    fun h => ⟨.rnd x nn, class_reg_byte_eq ((selects_iff_c).1 h), rfl⟩,
    fun h => ⟨.drw x y (fieldN op), nibbles_eq ((selects_iff_c).1 h), rfl⟩,
    fun h => ⟨.skp x, class_reg_literal_eq ((selects_iff_c_nn).1 h), rfl⟩,
    fun h => ⟨.sknp x, class_reg_literal_eq ((selects_iff_c_nn).1 h), rfl⟩,
    fun h => ⟨.ldVxDt x, class_reg_literal_eq ((selects_iff_c_nn).1 h), rfl⟩,
    fun h => ⟨.ldVxK x, class_reg_literal_eq ((selects_iff_c_nn).1 h), rfl⟩,
    fun h => ⟨.ldDtVx x, class_reg_literal_eq ((selects_iff_c_nn).1 h), rfl⟩,
    fun h => ⟨.ldStVx x, class_reg_literal_eq ((selects_iff_c_nn).1 h), rfl⟩,
    fun h => ⟨.addIVx x, class_reg_literal_eq ((selects_iff_c_nn).1 h), rfl⟩,
    fun h => ⟨.ldFVx x, class_reg_literal_eq ((selects_iff_c_nn).1 h), rfl⟩,
    fun h => ⟨.ldBVx x, class_reg_literal_eq ((selects_iff_c_nn).1 h), rfl⟩,
    fun h => ⟨.ldMemVx x, class_reg_literal_eq ((selects_iff_c_nn).1 h), rfl⟩,
    fun h => ⟨.ldVxMem x, class_reg_literal_eq ((selects_iff_c_nn).1 h), rfl⟩,
    List.forall_mem_nil _⟩

theorem exists_decodeWord_of_selects {op : Word} {r : OpcodeRow} (hr : r ∈ opcodeMap) (h : r.selects op = true) :
    ∃ i, decodeWord op = .ok i ∧ i.rowNumber = r.number := by
  obtain ⟨i, hi, hnumber⟩ := exists_encode_eq_of_selects op r hr h
  exact ⟨i, hi ▸ decodeWord_encode i, hnumber⟩

theorem mem_of_selectRow {op : Word} {r : OpcodeRow} (h : selectRow op = some r) : r ∈ opcodeMap := List.mem_of_find?_eq_some h

theorem selects_of_selectRow {op : Word} {r : OpcodeRow} (h : selectRow op = some r) : r.selects op = true :=
  List.find?_some (p := fun q : OpcodeRow => q.selects op) h

/-- Settles O3: a row that selects the word fixes what it decodes to, and a word that decodes is selected by its instruction's row. -/
theorem decoderFollowsOpcodeMap : Obligations.DecoderFollowsOpcodeMap := by
  intro op
  split
  next r hr => exact exists_decodeWord_of_selects (mem_of_selectRow hr) (selects_of_selectRow hr)
  next hnone =>
    cases hd : decodeWord op with
    | ok i =>
      obtain ⟨r, hr, hsel⟩ := exists_row_selects_encode i
      rw [encode_of_decodeWord hd] at hsel
      exact absurd hsel (List.find?_eq_none.1 hnone r (List.mem_of_getElem? hr))
    | error e => rw [decodeWord_error hd]

/-! ### The rows exclude each other -/

/-- Two rows that select one word agree on the bits both look at. -/
theorem common_bits_eq_of_selects {r r' : OpcodeRow} {op : Word} (h : r.selects op = true) (h' : r'.selects op = true) :
    r.value &&& r'.mask = r'.value &&& r.mask := by
  rw [← (r.selects_iff op).1 h, ← (r'.selects_iff op).1 h', BitVec.and_assoc, BitVec.and_assoc, BitVec.and_comm r.mask]

/-- No two rows of R64 agree on the bits both look at. -/
theorem opcodeMap_common_bits : ∀ r ∈ opcodeMap, ∀ r' ∈ opcodeMap, r.value &&& r'.mask = r'.value &&& r.mask → r = r' := by
  decide

/-- Settles O4: any two rows differ in a bit that both look at, and no row's match has a bit outside its mask. -/
theorem opcodeMapRowsAreDisjoint : Obligations.OpcodeMapRowsAreDisjoint :=
  ⟨fun r hr r' hr' _ h h' => opcodeMap_common_bits r hr r' hr' (common_bits_eq_of_selects h h'), by decide⟩

/-! ### The words no row selects (R65) -/

theorem decodeClass0_eq_error_iff (op : Word) :
    decodeClass0 op = .error (.unrecognizedOpcode op) ↔ fieldNNN op ≠ 0x0E0 ∧ fieldNNN op ≠ 0x0EE := by
  unfold decodeClass0
  simp only [← BitVec.toNat_inj, ne_eq]
  split
  case h_3 h0E0 h0EE => exact iff_of_true rfl ⟨h0E0, h0EE⟩
  all_goals next hnnn => simp [hnnn]

theorem decodeClass8_eq_error_iff (op : Word) :
    decodeClass8 op = .error (.unrecognizedOpcode op) ↔ fieldN op = 8 ∨ fieldN op = 9 ∨ fieldN op = 0xA ∨ fieldN op = 0xB ∨
      fieldN op = 0xC ∨ fieldN op = 0xD ∨ fieldN op = 0xF := by
  have hlt := (fieldN op).isLt
  unfold decodeClass8
  simp only [← BitVec.toNat_inj]
  split
  case h_10 => exact iff_of_true rfl (by grind)
  all_goals next hn => simp [hn]

theorem decodeClassE_eq_error_iff (op : Word) :
    decodeClassE op = .error (.unrecognizedOpcode op) ↔ fieldNN op ≠ 0x9E ∧ fieldNN op ≠ 0xA1 := by
  unfold decodeClassE
  simp only [← BitVec.toNat_inj, ne_eq]
  split
  case h_3 h9E hA1 => exact iff_of_true rfl ⟨h9E, hA1⟩
  all_goals next hnn => simp [hnn]

theorem decodeClassF_eq_error_iff (op : Word) :
    decodeClassF op = .error (.unrecognizedOpcode op) ↔ fieldNN op ≠ 0x07 ∧ fieldNN op ≠ 0x0A ∧ fieldNN op ≠ 0x15 ∧
      fieldNN op ≠ 0x18 ∧ fieldNN op ≠ 0x1E ∧ fieldNN op ≠ 0x29 ∧ fieldNN op ≠ 0x33 ∧ fieldNN op ≠ 0x55 ∧ fieldNN op ≠ 0x65 := by
  unfold decodeClassF
  simp only [← BitVec.toNat_inj, ne_eq]
  split
  case h_10 h07 h0A h15 h18 h1E h29 h33 h55 h65 => exact iff_of_true rfl ⟨h07, h0A, h15, h18, h1E, h29, h33, h55, h65⟩
  all_goals next hnn => simp [hnn]

/-- Settles O5: one class has one line of the table, classes 5 and 9 by their test of `n`. -/
theorem unrecognizedWordsByClass : Obligations.UnrecognizedWordsByClass := by
  intro op
  rw [unrecognized_iff, ← decodeClass0_eq_error_iff, ← decodeClass8_eq_error_iff, ← decodeClassE_eq_error_iff,
    ← decodeClassF_eq_error_iff]
  unfold decodeWord
  simp only [← BitVec.toNat_inj (x := fieldC op)]
  split
  case h_17 => exact absurd (fieldC op).isLt (by grind)
  all_goals next hc => simp [hc]

/-- Settles O6: each word is a literal. -/
theorem exampleWordsDecode : Obligations.ExampleWordsDecode := by
  unfold Obligations.ExampleWordsDecode
  decide

end Sys2Proof

namespace Sys2Proof.Machine

/-- Settles O7: such a core fetches the word and executes `i`. -/
theorem stepRunsDecodedInstruction : Obligations.StepRunsDecodedInstruction :=
  fun s _ hfault hwait hword => step_of_executes ⟨(running_iff s).2 ⟨hfault, hwait⟩, hword⟩

end Sys2Proof.Machine

/-! Control flow (40_control_flow.md): the jumps, the stack discipline of `CALL` and `RET`, and the compare skips, as instructions
and as cycles. -/

namespace Sys2Proof.Machine

/-! ### Jumps -/

@[simp] theorem toNat_addrOf (nnn : Addr) : (addrOf nnn).toNat = nnn.toNat := BitVec.toNat_setWidth_of_le (by decide)

@[simp] theorem State.toNat_readRegWide (s : State) (r : Reg) : (s.readRegWide r).toNat = (s.readReg r).toNat :=
  BitVec.toNat_setWidth_of_le (by decide)

/-- An address plus a register is at most 4095 + 255, so the 16-bit sum is the exact one (R84). -/
theorem State.toNat_addrOf_add_readRegWide (s : State) (nnn : Addr) (r : Reg) :
    (addrOf nnn + s.readRegWide r).toNat = nnn.toNat + (s.readReg r).toNat := by
  have haddr := nnn.isLt
  have hreg := (s.readReg r).isLt
  have hsum : (addrOf nnn).toNat + (s.readRegWide r).toNat < 2 ^ 16 := by
    rw [toNat_addrOf, State.toNat_readRegWide]
    omega
  rw [BitVec.toNat_add_of_lt hsum, toNat_addrOf, State.toNat_readRegWide]

/-- Settles O27. -/
theorem jumpGoesToAddress : Obligations.JumpGoesToAddress := fun nnn s =>
  ⟨decodeWord_encode (.jp nnn), _, rfl, toNat_addrOf nnn, s.keepsAllBut_setPc _⟩

/-- Settles O28: the exact sum fits in `pc`. -/
theorem indexedJumpAddsRegisterZero : Obligations.IndexedJumpAddsRegisterZero := fun nnn s =>
  ⟨decodeWord_encode (.jpV0 nnn), _, rfl, s.toNat_addrOf_add_readRegWide nnn 0, s.keepsAllBut_setPc _⟩

/-! ### The call stack -/

theorem State.keepsStackCellsBut_setStack (s : State) {d : Nat} (hd : d < 16) (w : Word) :
    KeepsStackCellsBut d s { s with stack := s.stack.set d w hd } :=
  fun _ hk hne => Vector.getElem_set_ne hd hk hne.symm

/-- Settles O24: the two cases of `RET` by depth. -/
theorem returnPopsOrUnderflows : Obligations.ReturnPopsOrUnderflows := by
  refine ⟨decodeWord_encode .ret, fun s => ⟨fun d hd => ?pops, fun hempty => ?underflows⟩⟩
  case pops =>
    have hpos : 0 < s.sp.val := by omega
    refine ⟨s.pop, execRet_of_pos hpos, ?_, ?_, s.keepsAllBut_pop⟩
    · simp [State.pop_of_pos s hpos, hd]
    · simp [State.pop_of_pos s hpos, hd, Vector.get_eq_getElem]
  case underflows =>
    refine ⟨_, execRet_of_zero (by rw [hempty]; rfl), ?_, s.keepsAllBut_raise _⟩
    rw [hempty]
    rfl

theorem State.keepsAllBut_setPc_push (s : State) (w a : Word) :
    KeepsAllBut [.sp, .stackCells, .pc] s ((s.push w).setPc a) :=
  ((s.keepsAllBut_push w).mono (by simp)).trans (((s.push w).keepsAllBut_setPc a).mono (by simp))

/-- Settles O25: the two cases of `CALL` by depth. -/
theorem callPushesOrOverflows : Obligations.CallPushesOrOverflows := by
  refine fun nnn s => ⟨decodeWord_encode (.call nnn), fun d hd => ?pushes, fun hfull => ?overflows⟩
  case pushes =>
    have hlt : s.sp.val < 16 := by omega
    refine ⟨_, execCall_of_lt nnn hlt, ?_, ?_, ?_, toNat_addrOf nnn, s.keepsAllBut_setPc_push _ _⟩
    · simp [State.push_of_lt s _ hlt, hd]
    · simp [State.push_of_lt s _ hlt, hd, Vector.get_eq_getElem]
    · rw [State.push_of_lt s _ hlt, ← hd]
      exact s.keepsStackCellsBut_setStack hlt s.pc
  case overflows =>
    refine ⟨_, execCall_of_full nnn (by rw [hfull]; rfl), ?_, s.keepsAllBut_raise _⟩
    rw [hfull]
    rfl

/-- `RET` undoes a push, wherever `pc` went in between; the cell pushed to keeps the return address and is dead (R15, R81). -/
theorem execRet_setPc_push (s : State) (w a : Word) (h : s.sp.val < 16) :
    execRet ((s.push w).setPc a) = .next { s with stack := s.stack.set s.sp.val w h, pc := w } := by
  have hpos : 0 < s.sp.val + 1 := Nat.succ_pos _
  rw [State.push_of_lt s w h, execRet_of_pos hpos, State.pop_of_pos _ hpos]
  simp [State.setPc]

/-- Settles O26: the return undoes the call's push; `pc` and the depth are those the call found. -/
theorem callThenReturnRestoresPc : Obligations.CallThenReturnRestoresPc := fun nnn s w hlt =>
  ⟨_, _, execCall_of_lt nnn hlt, execRet_setPc_push s s.pc w hlt, rfl, rfl, s.keepsStackCellsBut_setStack hlt s.pc,
    keepsAllBut_of_sameFields⟩

/-! ### Compare skips -/

theorem State.skipIf_beq_pc (s : State) (a b : Byte) :
    (s.skipIf (a == b)).pc = if a.toNat = b.toNat then s.pc + 2 else s.pc := by
  simp only [State.skipIf_pc, beq_iff_eq, BitVec.toNat_inj]

theorem State.skipIf_bne_pc (s : State) (a b : Byte) :
    (s.skipIf (a != b)).pc = if a.toNat = b.toNat then s.pc else s.pc + 2 := by
  simp only [State.skipIf_pc, bne_iff_ne, ite_not, ne_eq, BitVec.toNat_inj]

/-- Settles O29. -/
theorem compareSkips : Obligations.CompareSkips := fun x y nn s =>
  ⟨⟨decodeWord_encode (.seImm x nn), _, rfl, s.skipIf_beq_pc _ _, s.keepsAllBut_skipIf _⟩,
   ⟨decodeWord_encode (.sneImm x nn), _, rfl, s.skipIf_bne_pc _ _, s.keepsAllBut_skipIf _⟩,
   ⟨decodeWord_encode (.seReg x y), _, rfl, s.skipIf_beq_pc _ _, s.keepsAllBut_skipIf _⟩,
   ⟨decodeWord_encode (.sneReg x y), _, rfl, s.skipIf_bne_pc _ _, s.keepsAllBut_skipIf _⟩⟩

/-- Fetch's advance and a conditional skip together move `pc` by 4 or by 2 (R63, R80 (c)). -/
theorem State.skipIf_skip (s : State) (c : Bool) :
    s.skip.skipIf c = { s with pc := s.pc + (if c then 4 else 2) } := by
  cases c with
  | false => rfl
  | true => exact congrArg s.setPc (BitVec.add_assoc s.pc 2 2)

theorem State.skipIf_skip_beq (s : State) (a b : Byte) :
    s.skip.skipIf (a == b) = { s with pc := s.pc + (if a = b then 4 else 2) } := by
  simp only [State.skipIf_skip, beq_iff_eq]

theorem State.skipIf_skip_bne (s : State) (a b : Byte) :
    s.skip.skipIf (a != b) = { s with pc := s.pc + (if a = b then 2 else 4) } := by
  simp only [State.skipIf_skip, bne_iff_ne, ite_not, ne_eq]

/-- Settles O30: the instruction runs on the advanced state, where the registers read as before fetch. -/
theorem skipCycleMovesPcByFourOrTwo : Obligations.SkipCycleMovesPcByFourOrTwo := fun s _ _ _ =>
  ⟨fun h => (step_of_executes h).trans (congrArg _ (s.skipIf_skip_beq _ _)),
   fun h => (step_of_executes h).trans (congrArg _ (s.skipIf_skip_bne _ _)),
   fun h => (step_of_executes h).trans (congrArg _ (s.skipIf_skip_beq _ _)),
   fun h => (step_of_executes h).trans (congrArg _ (s.skipIf_skip_bne _ _))⟩

end Sys2Proof.Machine

/-! Register arithmetic (41_alu.md): what the loads, the logic, the arithmetic and the shifts leave in `V[x]` and in the flag
register, in numbers. -/

namespace Sys2Proof.Machine

/-! ### Reads of what was just written -/

theorem State.readReg_writeReg_self (s : State) (x : Reg) (b : Byte) : (s.writeReg x b).readReg x = b := by
  rw [State.readReg_writeReg, if_pos rfl]

theorem State.readReg_writeResultFlag_result (s : State) {x : Reg} (hx : x ≠ 15) (res : Byte) (flag : Bool) :
    (s.writeResultFlag Policy.flagWriteOrder x res flag).readReg x = res := by
  rw [State.readReg_writeResultFlag, if_neg hx, if_pos rfl]

/-- The flag is written last, so `V[0xF]` holds it for every `x` (R80 (b)). -/
theorem State.readReg_writeResultFlag_flag (s : State) (x : Reg) (res : Byte) (flag : Bool) :
    (s.writeResultFlag Policy.flagWriteOrder x res flag).readReg 15 = flagByte flag := by
  rw [State.readReg_writeResultFlag, if_pos rfl]

/-! ### Results and flags in numbers (R12, R100) -/

theorem toNat_flagByte (b : Bool) : (flagByte b).toNat = b.toNat := by
  cases b with
  | false => rfl
  | true => rfl

theorem toNat_flagByte_decide (p : Prop) [Decidable p] : (flagByte (decide p)).toNat = if p then 1 else 0 := by
  rw [toNat_flagByte, Bool.toNat, Bool.cond_decide]

theorem toNat_flagByte_carryOut (a b : Byte) :
    (flagByte (carryOut a b)).toNat = if a.toNat + b.toNat > 255 then 1 else 0 := toNat_flagByte_decide _

theorem toNat_flagByte_noBorrow (m s : Byte) :
    (flagByte (noBorrow m s)).toNat = if m.toNat ≥ s.toNat then 1 else 0 := toNat_flagByte_decide _

theorem toNat_flagByte_lostRight (v : Byte) : (flagByte (lostRight v)).toNat = v.toNat % 2 := by
  rw [toNat_flagByte, lostRight, BitVec.getLsbD, Nat.toNat_testBit, Nat.pow_zero, Nat.div_one]

theorem toNat_flagByte_lostLeft (v : Byte) : (flagByte (lostLeft v)).toNat = v.toNat / 128 := by
  have hv := v.isLt
  rw [toNat_flagByte, lostLeft, BitVec.getLsbD, Nat.toNat_testBit]
  omega

/-- The wrapped difference is the integer difference modulo 256 (R108, R110). -/
theorem toNat_sub_eq_emod (m s : Byte) : ((m - s).toNat : Int) = (m.toNat - s.toNat) % 256 := by
  have hm := m.isLt
  have hs := s.isLt
  rw [BitVec.toNat_sub]
  omega

theorem toNat_shiftRight_one (v : Byte) : (v >>> 1).toNat = v.toNat / 2 := by
  rw [BitVec.toNat_ushiftRight, Nat.shiftRight_eq_div_pow, Nat.pow_one]

theorem toNat_shiftLeft_one (v : Byte) : (v <<< 1).toNat = v.toNat * 2 % 256 := by
  rw [BitVec.toNat_shiftLeft, Nat.shiftLeft_eq, Nat.pow_one]

/-! ### Instructions that write no flag -/

/-- Settles O32. -/
theorem loadsWriteTheirRegister : Obligations.LoadsWriteTheirRegister := fun x y nn s =>
  ⟨⟨decodeWord_encode (.ldImm x nn), _, rfl, s.readReg_writeReg_self x _, s.keepsRegsBut_writeReg x _, s.keepsAllBut_writeReg x _⟩,
   ⟨decodeWord_encode (.ldReg x y), _, rfl, s.readReg_writeReg_self x _, s.keepsRegsBut_writeReg x _, s.keepsAllBut_writeReg x _⟩⟩

/-- Settles O33: the sum of two bytes is the number's sum modulo 256, and only `V[x]` is written. -/
theorem addImmediateWritesNoFlag : Obligations.AddImmediateWritesNoFlag := by
  refine fun x nn s => ⟨decodeWord_encode (.addImm x nn), _, rfl, ?_, s.keepsRegsBut_writeReg x _, s.keepsAllBut_writeReg x _⟩
  rw [State.readReg_writeReg_self, BitVec.toNat_add]

/-- After a logic instruction each bit of `V[x]` is the bit of the result, and nothing else is written
(`LOGIC_WRITES_VF = false`). -/
theorem State.writeLogic_bits (s : State) (x : Reg) {res : Byte} {bit : Nat → Bool} (h : ∀ k, res.getLsbD k = bit k) :
    (∀ k, ((s.writeLogic Policy.logicWritesVF x res).readReg x).getLsbD k = bit k) ∧
      KeepsRegsBut [x] s (s.writeLogic Policy.logicWritesVF x res) ∧
      KeepsAllBut [.regs] s (s.writeLogic Policy.logicWritesVF x res) := by
  rw [State.writeLogic_eq, State.readReg_writeReg_self]
  exact ⟨h, s.keepsRegsBut_writeReg x res, s.keepsAllBut_writeReg x res⟩

/-- Settles O34: the three write a logic result, whose bits are those of the operands combined. -/
theorem logicWritesNoFlag : Obligations.LogicWritesNoFlag := fun x y s =>
  ⟨⟨decodeWord_encode (.orReg x y), _, rfl, s.writeLogic_bits x fun _ => BitVec.getLsbD_or⟩,
   ⟨decodeWord_encode (.andReg x y), _, rfl, s.writeLogic_bits x fun _ => BitVec.getLsbD_and⟩,
   ⟨decodeWord_encode (.xorReg x y), _, rfl, s.writeLogic_bits x fun _ => BitVec.getLsbD_xor⟩⟩

/-! ### Instructions that write the flag -/

/-- What the five flag-writing instructions leave: the result in `V[x]` unless `x = 0xF`, the flag in `V[0xF]`, all else kept
(R80 (b)). `P` and `n` say what the result and the flag are as numbers. -/
theorem State.writeResultFlag_spec (s : State) (x : Reg) {res : Byte} {flag : Bool} {P : Byte → Prop} {n : Nat}
    (hres : P res) (hflag : (flagByte flag).toNat = n) :
    (x ≠ 15 → P ((s.writeResultFlag Policy.flagWriteOrder x res flag).readReg x)) ∧
      ((s.writeResultFlag Policy.flagWriteOrder x res flag).readReg 15).toNat = n ∧
      KeepsRegsBut [x, 15] s (s.writeResultFlag Policy.flagWriteOrder x res flag) ∧
      KeepsAllBut [.regs] s (s.writeResultFlag Policy.flagWriteOrder x res flag) :=
  ⟨fun hx => (s.readReg_writeResultFlag_result hx res flag).symm ▸ hres,
   (s.readReg_writeResultFlag_flag x res flag).symm ▸ hflag,
   s.keepsRegsBut_writeResultFlag x res flag, s.keepsAllBut_writeResultFlag x res flag⟩

/-- Settles O35. -/
theorem addSetsCarry : Obligations.AddSetsCarry := fun x y s =>
  ⟨decodeWord_encode (.addReg x y), _, rfl,
   s.writeResultFlag_spec x (P := fun r => r.toNat = _) (BitVec.toNat_add ..) (toNat_flagByte_carryOut _ _)⟩

/-- Settles O36: one subtraction, with the operands in either order. -/
theorem subtractsSetNoBorrow : Obligations.SubtractsSetNoBorrow := fun x y s =>
  ⟨⟨decodeWord_encode (.sub x y), _, rfl,
    s.writeResultFlag_spec x (P := fun r => (r.toNat : Int) = _) (toNat_sub_eq_emod _ _) (toNat_flagByte_noBorrow _ _)⟩,
   ⟨decodeWord_encode (.subn x y), _, rfl,
    s.writeResultFlag_spec x (P := fun r => (r.toNat : Int) = _) (toNat_sub_eq_emod _ _) (toNat_flagByte_noBorrow _ _)⟩⟩

/-- Settles O37: the register shifted is `V[x]` (`SHIFT_SRC = VX`), whatever `y` is. -/
theorem shiftsSetLostBit : Obligations.ShiftsSetLostBit := fun x y s =>
  ⟨⟨decodeWord_encode (.shr x y), _, rfl,
    s.writeResultFlag_spec x (P := fun r => r.toNat = _) (toNat_shiftRight_one _) (toNat_flagByte_lostRight _)⟩,
   ⟨decodeWord_encode (.shl x y), _, rfl,
    s.writeResultFlag_spec x (P := fun r => r.toNat = _) (toNat_shiftLeft_one _) (toNat_flagByte_lostLeft _)⟩⟩

end Sys2Proof.Machine

/-! Index register and memory instructions (42_index_memory.md): what they leave in `I`, the decimal digits in memory, and the block
store and load of `V[0]` to `V[x]`. -/

namespace Sys2Proof.Machine

/-! ### The index register -/

/-- The last glyph starts at 75, so its address is exact in 16 bits (R44, R123). -/
theorem toNat_glyphAddr (b : Byte) : (glyphAddr b).toNat = 5 * (b.toNat % 16) := by
  rw [glyphAddr, BitVec.toNat_ofNat, Config.fontBase, Config.glyphStride]
  omega

/-- `ADD I, Vx` adds the register's number modulo 2^16 (R122). -/
theorem State.toNat_index_add_readRegWide (s : State) (x : Reg) :
    (s.i + s.readRegWide x).toNat = (s.i.toNat + (s.readReg x).toNat) % 65536 := by
  rw [BitVec.toNat_add, State.toNat_readRegWide]

/-- Settles O39: each of the three is one write of `I`. -/
theorem indexInstructionsWriteIndex : Obligations.IndexInstructionsWriteIndex := fun nnn x s =>
  ⟨⟨decodeWord_encode (.ldI nnn), _, rfl, toNat_addrOf nnn, s.keepsAllBut_setIndex _⟩,
   ⟨decodeWord_encode (.addIVx x), _, rfl, s.toNat_index_add_readRegWide x, s.keepsAllBut_setIndex _⟩,
   ⟨decodeWord_encode (.ldFVx x), _, rfl, toNat_glyphAddr _, s.keepsAllBut_setIndex _⟩⟩

/-! ### Decimal digits -/

/-- After the digits are stored at `a`, the three bytes there are the decimal digits as numbers: each fits in a byte (R124). -/
theorem State.toNat_readByte_storeDigits (s : State) (a : Nat) (b : Byte) :
    ((s.storeBytes a (bcdDigits b)).readByte a).toNat = b.toNat / 100 ∧
      ((s.storeBytes a (bcdDigits b)).readByte (a + 1)).toNat = b.toNat / 10 % 10 ∧
      ((s.storeBytes a (bcdDigits b)).readByte (a + 2)).toNat = b.toNat % 10 := by
  have hread := s.readByte_storeBytes_self a (bcdDigits b) (by decide : 3 ≤ 4096)
  have hhundreds : (s.storeBytes a (bcdDigits b)).readByte a = BitVec.ofNat 8 (b.toNat / 100) := hread 0 (by decide : 0 < 3)
  have htens : (s.storeBytes a (bcdDigits b)).readByte (a + 1) = BitVec.ofNat 8 (b.toNat / 10 % 10) :=
    hread 1 (by decide : 1 < 3)
  have hones : (s.storeBytes a (bcdDigits b)).readByte (a + 2) = BitVec.ofNat 8 (b.toNat % 10) := hread 2 (by decide : 2 < 3)
  have hbyte := b.isLt
  rw [hhundreds, htens, hones, BitVec.toNat_ofNat, BitVec.toNat_ofNat, BitVec.toNat_ofNat]
  omega

/-- Settles O40: the three bytes read back are the digits of a number below 256. -/
theorem bcdStoresDecimalDigits : Obligations.BcdStoresDecimalDigits := by
  intro x s
  obtain ⟨hhundreds, htens, hones⟩ := s.toNat_readByte_storeDigits s.i.toNat (s.readReg x)
  have hbyte := (s.readReg x).isLt
  refine ⟨decodeWord_encode (.ldBVx x), _, rfl, ?sum, ?hundreds, ?tens, ?ones,
    s.keepsBytesBut_storeBytes s.i.toNat (bcdDigits (s.readReg x)), s.keepsAllBut_storeBytes _ _⟩
  all_goals omega

/-! ### Block store and load -/

theorem State.keepsBytesBut_storeBlock (s : State) (a : Nat) (x : Reg) :
    KeepsBytesBut a (x.val + 1) s (s.storeBytes a (s.blockBytes x)) :=
  s.length_blockBytes x ▸ s.keepsBytesBut_storeBytes a (s.blockBytes x)

/-- Settles O41: a block store is one store of the registers' bytes, and `I` stays (`BLOCK_I_INCREMENT = none`). -/
theorem blockStoreCopiesRegisters : Obligations.BlockStoreCopiesRegisters := fun x s =>
  ⟨decodeWord_encode (.ldMemVx x), _, rfl, fun _ hj => s.readByte_storeBlock s.i.toNat hj,
   s.keepsBytesBut_storeBlock s.i.toNat x, s.keepsAllBut_storeBytes _ _⟩

/-- After a block load each loaded register holds the byte at `I` plus its index (R126). -/
theorem State.readReg_loadBlock (s : State) {x j : Reg} (h : j ≤ x) :
    (s.loadRegs (regsUpTo x)).readReg j = s.readByte (s.i.toNat + j.val) := by
  rw [State.readReg_loadRegs, if_pos ((mem_regsUpTo x j).2 h)]

theorem State.readReg_loadBlock_above (s : State) {x j : Reg} (h : x < j) :
    (s.loadRegs (regsUpTo x)).readReg j = s.readReg j :=
  s.keepsRegsBut_loadRegs (regsUpTo x) j fun hmem => Fin.not_le.2 h ((mem_regsUpTo x j).1 hmem)

/-- Settles O42: a block load writes the registers up to `x` and no other, and `I` stays (`BLOCK_I_INCREMENT = none`). -/
theorem blockLoadCopiesMemory : Obligations.BlockLoadCopiesMemory := fun x s =>
  ⟨decodeWord_encode (.ldVxMem x), _, rfl, fun _ hj => s.readReg_loadBlock hj, fun _ hj => s.readReg_loadBlock_above hj,
   s.keepsAllBut_loadRegs _⟩

/-- Settles O43: the load reads, at the addresses of the store, the bytes the store left there. -/
theorem blockStoreThenLoadRoundTrips : Obligations.BlockStoreThenLoadRoundTrips := by
  intro x s t u v hstore hindex hbytes hload j hj
  obtain rfl := outcome_next_inj.1 hstore
  obtain rfl := outcome_next_inj.1 hload
  calc (u.loadRegs (regsUpTo x)).readReg j
    _ = u.readByte (s.i.toNat + j.val) := hindex ▸ u.readReg_loadBlock hj
    _ = (s.storeBytes s.i.toNat (s.blockBytes x)).readByte (s.i.toNat + j.val) := hbytes j hj
    _ = s.readReg j := s.readByte_storeBlock s.i.toNat hj

end Sys2Proof.Machine

/-! Display (43_display.md): the clear, and what a draw leaves in the cells it covers, in the other cells and in the flag. -/

namespace Sys2Proof.Machine

/-! ### Clear -/

/-- Settles O46. -/
theorem clearTurnsEveryCellOff : Obligations.ClearTurnsEveryCellOff :=
  ⟨decodeWord_encode .cls, fun s => ⟨_, rfl, s.cell_clearDisplay, s.keepsAllBut_clearDisplay⟩⟩

/-! ### Draw -/

/-- What `DRW Vx, Vy, n` leaves (R132). -/
def State.afterDraw (s : State) (x y : Reg) (n : Nibble) : State :=
  (s.writeReg flagReg 0).drawRows (s.originX x) (s.originY y) s.i.toNat n.toNat

theorem exec_drw (x y : Reg) (n : Nibble) (s : State) : exec (.drw x y n) s = .next (s.afterDraw x y n) := rfl

theorem flagByte_eq_one_iff (b : Bool) : flagByte b = 1 ↔ b = true := by
  cases b with
  | false => decide
  | true => decide

theorem flagByte_eq_zero_iff (b : Bool) : flagByte b = 0 ↔ b = false := by
  cases b with
  | false => decide
  | true => decide

section
variable {s : State} {x y : Reg} {n : Nibble}

theorem State.mem_spriteCells_iff_covers {p : Fin 32 × Fin 64} :
    p ∈ s.spriteCells (s.originX x) (s.originY y) s.i.toNat n.toNat ↔ s.covers x y n p.1 p.2 :=
  s.mem_spriteCells _ _ _ _ p

/-- The at most 15 rows of a sprite fall on distinct cells, so each of them is toggled once (R132 (e)). -/
theorem State.cell_afterDraw (yy : Fin 32) (xx : Fin 64) :
    (s.afterDraw x y n).cell yy xx =
      if (yy, xx) ∈ s.spriteCells (s.originX x) (s.originY y) s.i.toNat n.toNat then !s.cell yy xx else s.cell yy xx := by
  have hn : n.toNat ≤ 32 := by have := n.isLt; omega
  rw [State.afterDraw, State.drawRows_eq, State.cell_drawCells _ _ (State.nodup_spriteCells _ _ _ _ _ hn)]
  rfl

theorem State.cell_afterDraw_of_covers {yy : Fin 32} {xx : Fin 64} (h : s.covers x y n yy xx) :
    (s.afterDraw x y n).cell yy xx = !s.cell yy xx := by
  rw [State.cell_afterDraw, if_pos (State.mem_spriteCells_iff_covers.2 h)]

theorem State.cell_afterDraw_of_not_covers {yy : Fin 32} {xx : Fin 64} (h : ¬ s.covers x y n yy xx) :
    (s.afterDraw x y n).cell yy xx = s.cell yy xx := by
  rw [State.cell_afterDraw, if_neg (mt State.mem_spriteCells_iff_covers.1 h)]

/-- A collision: a covered cell is on. -/
theorem State.exists_lit_spriteCell_iff :
    (∃ p ∈ s.spriteCells (s.originX x) (s.originY y) s.i.toNat n.toNat, s.cell p.1 p.2 = true) ↔
      ∃ yy xx, s.covers x y n yy xx ∧ s.cell yy xx = true := by
  simp only [State.mem_spriteCells_iff_covers, Prod.exists]

theorem State.flag_afterDraw_eq_one_iff :
    (s.afterDraw x y n).readReg 15 = 1 ↔ ∃ yy xx, s.covers x y n yy xx ∧ s.cell yy xx = true := by
  rw [State.afterDraw, State.readReg_drawSprite, if_pos rfl, flagByte_eq_one_iff, decide_eq_true_iff,
    State.exists_lit_spriteCell_iff]

theorem State.flag_afterDraw_eq_zero_iff :
    (s.afterDraw x y n).readReg 15 = 0 ↔ ¬ ∃ yy xx, s.covers x y n yy xx ∧ s.cell yy xx = true := by
  rw [State.afterDraw, State.readReg_drawSprite, if_pos rfl, flagByte_eq_zero_iff, decide_eq_false_iff_not,
    State.exists_lit_spriteCell_iff]

/-- The covered cells depend on the registers, the sprite's bytes and `I` only. -/
theorem State.covers_congr {u : State} (hv : u.v = s.v) (hmem : u.mem = s.mem) (hindex : u.i = s.i) (yy : Fin 32)
    (xx : Fin 64) : u.covers x y n yy xx ↔ s.covers x y n yy xx := by
  simp only [State.covers, hindex, State.readByte_congr hmem, State.readReg_congr hv]

/-! ### Draw again

`u` is the state after a draw with the registers put back: a draw writes neither the sprite nor `I` (R132 (g)). -/

section
variable {u : State} (hcovers : ∀ yy xx, u.covers x y n yy xx ↔ s.covers x y n yy xx)
  (hcell : ∀ yy xx, u.cell yy xx = (s.afterDraw x y n).cell yy xx)
include hcovers hcell

theorem State.cell_afterDraw_again (yy : Fin 32) (xx : Fin 64) : (u.afterDraw x y n).cell yy xx = s.cell yy xx := by
  by_cases h : s.covers x y n yy xx
  · rw [State.cell_afterDraw_of_covers ((hcovers yy xx).2 h), hcell, State.cell_afterDraw_of_covers h, Bool.not_not]
  · rw [State.cell_afterDraw_of_not_covers (mt (hcovers yy xx).1 h), hcell, State.cell_afterDraw_of_not_covers h]

/-- A covered cell is on for the second draw exactly when it was off for the first. -/
theorem State.flag_afterDraw_again_eq_one_iff :
    (u.afterDraw x y n).readReg 15 = 1 ↔ ∃ yy xx, s.covers x y n yy xx ∧ s.cell yy xx = false := by
  rw [State.flag_afterDraw_eq_one_iff]
  refine exists_congr fun yy => exists_congr fun xx => (and_congr_left' (hcovers yy xx)).trans (and_congr_right fun h => ?_)
  rw [hcell, State.cell_afterDraw_of_covers h, Bool.not_eq_true']

end

end

/-- Settles O47: a draw toggles its sprite's distinct cells, and its flag reports whether one of them was on. -/
theorem drawTogglesCoveredCells : Obligations.DrawTogglesCoveredCells := by
  refine fun x y n s => ⟨decodeWord_encode (.drw x y n), _, exec_drw x y n s, fun _ _ => State.cell_afterDraw_of_covers,
    fun _ _ => State.cell_afterDraw_of_not_covers, State.flag_afterDraw_eq_one_iff.2, fun hoff => ?noCollision,
    registersOutsideDestinationAreKept _ _ _ (exec_drw x y n s), exec_keepsAllBut (exec_drw x y n s)⟩
  case noCollision =>
    refine State.flag_afterDraw_eq_zero_iff.2 fun ⟨yy, xx, hcov, hon⟩ => ?_
    rw [hoff yy xx hcov] at hon
    exact Bool.false_ne_true hon

/-- Settles O48: the second draw covers the cells of the first and toggles each of them back. -/
theorem drawTwiceRestoresDisplay : Obligations.DrawTwiceRestoresDisplay := by
  intro x y n s t h
  have ht : s.afterDraw x y n = t := outcome_next_inj.1 h
  have hmem : t.mem = s.mem := ht ▸ State.drawRows_mem ..
  have hindex : t.i = s.i := ht ▸ State.drawRows_i ..
  have hcovers : ∀ yy xx, { t with v := s.v }.covers x y n yy xx ↔ s.covers x y n yy xx := State.covers_congr rfl hmem hindex
  have hcell : ∀ yy xx, { t with v := s.v }.cell yy xx = (s.afterDraw x y n).cell yy xx := ht ▸ State.cell_congr rfl
  exact ⟨_, exec_drw x y n _, State.cell_afterDraw_again hcovers hcell, State.flag_afterDraw_again_eq_one_iff hcovers hcell⟩

end Sys2Proof.Machine

/-! Timers and keys (44_timers_keys.md): timer access, the key skips, and the key wait from `LD Vx, K` to the poll that ends it. -/

namespace Sys2Proof.Machine

/-! ### Timer access -/

theorem soundActive_iff (s : State) : soundActive s = true ↔ s.st ≠ 0 :=
  decide_eq_true_iff.trans (s.st.toNat_pos.trans s.st.pos_iff_ne_zero)

/-- Settles O49: one write of the destination each, and `SoundActive` reads the byte written to `ST` (R166). -/
theorem timerInstructionsCopy : Obligations.TimerInstructionsCopy := fun x s =>
  ⟨⟨decodeWord_encode (.ldVxDt x), _, rfl, s.readReg_writeReg_self x _, s.keepsRegsBut_writeReg x _, s.keepsAllBut_writeReg x _⟩,
   ⟨decodeWord_encode (.ldDtVx x), _, rfl, rfl, s.keepsAllBut_setDelay _⟩,
   ⟨decodeWord_encode (.ldStVx x), _, rfl, rfl, soundActive_iff _, s.keepsAllBut_setSound _⟩⟩

/-! ### Key skips -/

theorem keyIsDown_val (keys : Vector Bool 16) (k : Fin 16) : keyIsDown keys k.val = keys.get k :=
  keyIsDown_of_lt keys k.val k.isLt

/-- The whole register value is the key's index, so a value of 16 or more presses nothing (R143). -/
theorem State.pressed_iff (s : State) (b : Byte) :
    s.pressed b = true ↔ ∃ k : Fin 16, k.val = b.toNat ∧ s.key.get k = true := by
  rw [State.pressed]
  constructor
  · intro hdown
    by_cases hlt : b.toNat < 16
    · exact ⟨⟨b.toNat, hlt⟩, rfl, keyIsDown_val s.key ⟨b.toNat, hlt⟩ ▸ hdown⟩
    · rw [keyIsDown_of_ge s.key b.toNat (by omega)] at hdown
      exact absurd hdown Bool.false_ne_true
  · rintro ⟨k, hk, hdown⟩
    rwa [← hk, keyIsDown_val]

/-- Settles O50: the skip's condition is `pressed`, for `SKNP` negated. -/
theorem keySkipsTestWholeRegister : Obligations.KeySkipsTestWholeRegister := by
  refine fun x s => ⟨⟨decodeWord_encode (.skp x), _, rfl, s.keepsAllBut_skipIf _, ?skp⟩,
    ⟨decodeWord_encode (.sknp x), _, rfl, s.keepsAllBut_skipIf _, ?sknp⟩⟩
  case skp => simp only [State.skipIf_pc, State.pressed_iff]
  case sknp => simp only [State.skipIf_pc, Bool.not_eq_true', ← Bool.not_eq_true, State.pressed_iff, ite_not]

/-! ### The key wait -/

/-- Settles O51: the wait is armed with the register and the keys of the moment; the poll writes the register later. -/
theorem keyWaitInstructionArms : Obligations.KeyWaitInstructionArms := fun x s =>
  ⟨decodeWord_encode (.ldVxK x), _, rfl, rfl, rfl, rfl, s.keepsAllBut_armKeyWait x⟩

/-- Key `k` went from released at the last sample to pressed: it ends the wait (R146). -/
def State.newlyPressed (s : State) (k : Fin 16) : Prop := s.key.get k = true ∧ s.kprev.get k = false

theorem State.keyHit_iff (s : State) (k : Fin 16) : s.keyHit Policy.keyWaitMode k.val = true ↔ s.newlyPressed k := by
  rw [State.keyHit_eq, keyIsDown_val, keyIsDown_val, Bool.and_eq_true, Bool.not_eq_true', State.newlyPressed]

theorem State.keyHit_eq_false_iff (s : State) (k : Fin 16) :
    s.keyHit Policy.keyWaitMode k.val = false ↔ ¬ s.newlyPressed k := by
  rw [← State.keyHit_iff, Bool.not_eq_true]

theorem State.keyPoll_of_none_newlyPressed {s : State} (h : ∀ k, ¬ s.newlyPressed k) : s.keyPoll = s.sampleKeys := by
  have hnone : s.firstHit Policy.keyWaitMode = none :=
    s.firstHit_eq_none.2 fun j hj => (s.keyHit_eq_false_iff ⟨j, hj⟩).2 (h ⟨j, hj⟩)
  rw [State.keyPoll, hnone]

theorem State.keyPoll_of_lowest_newlyPressed {s : State} {k : Fin 16} (hk : s.newlyPressed k)
    (hbelow : ∀ j, j < k → ¬ s.newlyPressed j) : s.keyPoll = (s.endKeyWait k.val).sampleKeys := by
  have hfirst : s.firstHit Policy.keyWaitMode = some k.val :=
    (s.firstHit_eq_some k.val).2 ⟨k.isLt, (s.keyHit_iff k).2 hk, fun j hj =>
      (s.keyHit_eq_false_iff ⟨j, hj.trans k.isLt⟩).2 (hbelow _ hj)⟩
  rw [State.keyPoll, hfirst]

/-- The end of a wait leaves the key's index, which fits in a byte, in the target register (R146). -/
theorem State.toNat_readReg_endKeyWait (s : State) (k : Fin 16) : ((s.endKeyWait k.val).readReg s.wreg).toNat = k.val := by
  have hread : (s.endKeyWait k.val).readReg s.wreg = BitVec.ofNat 8 k.val := s.readReg_writeReg_self s.wreg _
  rw [hread, BitVec.toNat_ofNat]
  omega

theorem State.keepsRegsBut_endKeyWait (s : State) (k : Nat) : KeepsRegsBut [s.wreg] s (s.endKeyWait k) :=
  s.keepsRegsBut_writeReg s.wreg _

/-- Settles O11: the waiting cycle is the poll, which samples the keys whether or not one is newly pressed. -/
theorem waitingCyclePollsKeys : Obligations.WaitingCyclePollsKeys := by
  refine fun s hfault hwait => ⟨s.keyPoll, step_of_waiting hfault hwait, s.keyPoll_kprev, s.keyPoll_wreg,
    s.keepsAllBut_keyPoll, fun hnone => ?noTransition, fun k hdown hup hbelow => ?transition⟩
  case noTransition =>
    rw [State.keyPoll_of_none_newlyPressed hnone]
    exact ⟨hwait, fun _ => rfl⟩
  case transition =>
    rw [State.keyPoll_of_lowest_newlyPressed ⟨hdown, hup⟩ hbelow]
    exact ⟨rfl, s.toNat_readReg_endKeyWait k, s.keepsRegsBut_endKeyWait k.val⟩

theorem runEvents_cycle_cons {s t : State} (h : step s = .next t) (es : List Event) :
    runEvents (.cycle :: es) s = runEvents es t := runEvents_cons (e := .cycle) h es

/-- Settles O52: right after arming, the sample is the keys themselves, so no key is newly pressed. -/
theorem heldKeyDoesNotEndWait : Obligations.HeldKeyDoesNotEndWait := by
  intro x s hexec
  obtain ⟨hfault, -⟩ := (running_iff s).1 hexec.1
  have harm : step s = .next (s.skip.armKeyWait x) := step_of_executes hexec
  have hpoll : step (s.skip.armKeyWait x) = .next (s.skip.armKeyWait x).sampleKeys := by
    have hnone : ∀ k, ¬ (s.skip.armKeyWait x).newlyPressed k := fun _ ⟨hdown, hup⟩ =>
      Bool.false_ne_true (hup.symm.trans hdown)
    rw [step_of_waiting (s := s.skip.armKeyWait x) hfault rfl, State.keyPoll_of_none_newlyPressed hnone]
  exact ⟨_, (runEvents_cycle_cons harm _).trans (runEvents_cycle_cons hpoll []), rfl, rfl, fun _ => rfl⟩

/-! ### A key set during the wait -/

theorem get_key_setKey (s : State) (k j : Fin 16) (p : Bool) :
    (setKey k.val p s).key.get j = if j = k then p else s.key.get j := by
  rw [setKey_of_lt k.isLt]
  simp only [Vector.get_eq_getElem, Vector.getElem_set, Fin.val_inj, eq_comm]

/-- `SetKey` leaves the sample alone, so pressing a key released in it makes the key newly pressed (R146, R164). -/
theorem newlyPressed_setKey_self {s : State} {k : Fin 16} (hup : s.kprev.get k = false) :
    (setKey k.val true s).newlyPressed k := by
  rw [State.newlyPressed, get_key_setKey, if_pos rfl, setKey_of_lt k.isLt]
  exact ⟨rfl, hup⟩

theorem newlyPressed_setKey_of_ne {s : State} {k j : Fin 16} (hne : j ≠ k) (p : Bool) :
    (setKey k.val p s).newlyPressed j ↔ s.newlyPressed j := by
  rw [State.newlyPressed, get_key_setKey, if_neg hne, setKey_of_lt k.isLt, State.newlyPressed]

/-- Settles O53: after the key is set it is the only one newly pressed, so the next cycle's poll stores it. -/
theorem pressedKeyEndsWait : Obligations.PressedKeyEndsWait := by
  intro s k hfault hwait hup hothers
  have hkept := keepsAllBut_setKey k.val true s
  have hlatch : (setKey k.val true s).fault = s.fault := hkept .latch (by simp)
  obtain ⟨harmed, hwreg, -⟩ := hkept .keyWait (by simp)
  have hbelow : ∀ j, j < k → ¬ (setKey k.val true s).newlyPressed j := fun j hj =>
    mt (newlyPressed_setKey_of_ne (Fin.ne_of_lt hj) true).1 (hothers j (Fin.ne_of_lt hj))
  have hcycle := step_of_waiting (hlatch.trans hfault) (harmed.trans hwait)
  rw [State.keyPoll_of_lowest_newlyPressed (newlyPressed_setKey_self hup) hbelow] at hcycle
  refine ⟨_, (runEvents_cons (e := .setKey k.val true) rfl _).trans (runEvents_cycle_cons hcycle []), rfl, ?_,
    hkept .pc (by simp)⟩
  exact hwreg ▸ State.toNat_readReg_endKeyWait _ k

end Sys2Proof.Machine

/-! Fatal errors, the latch and the host's side (60_exceptions.md): what a fatal cycle leaves, the invariant along steps and runs,
the frozen halted core, and the host's operations and read-outs (R160). -/

namespace Sys2Proof.Machine

/-! ### The fatal cycle -/

/-- Settles O8: the cycle of an unrecognized word, whose big-endian word is the one fetched. -/
theorem unrecognizedOpcodeIsFatal : Obligations.UnrecognizedOpcodeIsFatal := by
  intro s op hfault hwait hop hword
  obtain rfl : op = s.fetchWord := hop
  exact step_of_unrecognized ((running_iff s).2 ⟨hfault, hwait⟩) hword

/-- What is fatal to the instruction that executes on `s`, the state after fetch: `CALL` on a full stack, `RET` on an empty one
(R152, R153). -/
def State.StackFault (s : State) (e : FatalError) : Prop :=
  (e = .stackOverflow 16 s.instrAddr ∧ s.sp = 16) ∨ (e = .stackUnderflow 0 s.instrAddr ∧ s.sp = 0)

theorem execRet_eq_raise_of_latches {s t : State} {e : FatalError} (hfault : s.fault = none) (h : execRet s = .next t)
    (he : t.fault = some e) : t = s.raise e ∧ s.StackFault e := by
  obtain hempty | hpos := Nat.eq_zero_or_pos s.sp.val
  · rw [execRet_of_zero hempty] at h
    obtain rfl := outcome_next_inj.1 h
    obtain rfl := Option.some_inj.1 he
    have hsp : s.sp = 0 := Fin.ext hempty
    exact ⟨rfl, .inr ⟨by rw [hsp], hsp⟩⟩
  · rw [execRet_of_pos hpos] at h
    obtain rfl := outcome_next_inj.1 h
    simp [hfault] at he

theorem execCall_eq_raise_of_latches {nnn : Addr} {s t : State} {e : FatalError} (hfault : s.fault = none)
    (h : execCall nnn s = .next t) (he : t.fault = some e) : t = s.raise e ∧ s.StackFault e := by
  by_cases hfull : s.sp.val = 16
  · rw [execCall_of_full nnn hfull] at h
    obtain rfl := outcome_next_inj.1 h
    obtain rfl := Option.some_inj.1 he
    have hsp : s.sp = 16 := Fin.ext hfull
    exact ⟨rfl, .inl ⟨by rw [hsp], hsp⟩⟩
  · rw [execCall_of_lt nnn (by omega)] at h
    obtain rfl := outcome_next_inj.1 h
    simp [hfault] at he

/-- An instruction that sets the latch does nothing else (R155). -/
theorem exec_eq_raise_of_latches {i : Instr} {s t : State} {e : FatalError} (hfault : s.fault = none)
    (h : exec i s = .next t) (he : t.fault = some e) : t = s.raise e ∧ s.StackFault e := by
  have hwrites : .latch ∈ i.writtenParts := by
    by_contra hnot
    have hkept : t.fault = s.fault := exec_keepsAllBut h .latch hnot
    simp [hkept, hfault] at he
  obtain rfl | ⟨nnn, rfl⟩ := eq_ret_or_call_of_mem_writtenParts (.inr hwrites)
  · exact execRet_eq_raise_of_latches hfault h he
  · exact execCall_eq_raise_of_latches hfault h he

/-- What is fatal to the cycle of `s`: the word it fetches, or what its instruction finds on the stack (R151 to R153). -/
def State.FatalCause (s : State) (e : FatalError) : Prop :=
  (e = .unrecognizedOpcode s.fetchWord s.pc ∧ unrecognized s.fetchWord = true) ∨ s.skip.StackFault e

theorem State.instrAddr_skip (s : State) : s.skip.instrAddr = s.pc := by
  rw [State.instrAddr, State.skip_pc, BitVec.add_sub_cancel]

/-- A cycle that sets the latch is a running core's, and does no more than the advance of `pc` and the raise (R155). -/
theorem step_eq_raise_of_latches {s t : State} {e : FatalError} (hfault : s.fault = none) (h : step s = .next t)
    (he : t.fault = some e) : t = s.skip.raise e ∧ s.running = true ∧ s.FatalCause e := by
  obtain ⟨hhalted, -⟩ | ⟨-, -, rfl⟩ | ⟨i, hi, hexec⟩ | ⟨hrun, hword, rfl⟩ := step_cases h
  · simp [hfault] at hhalted
  · simp [hfault] at he
  · obtain ⟨ht, hcause⟩ := exec_eq_raise_of_latches (s := s.skip) hfault hexec he
    exact ⟨ht, hi.1, .inr hcause⟩
  · obtain rfl := Option.some_inj.1 he
    exact ⟨rfl, hrun, .inl ⟨rfl, hword⟩⟩

/-- Settles O9: by the three causes of a fatal cycle; an executing instruction's address is the one fetched from. -/
theorem fatalCycleChangesOnlyPcAndLatch : Obligations.FatalCycleChangesOnlyPcAndLatch := by
  intro s t e hfault h he
  obtain ⟨ht, -, hcause⟩ := step_eq_raise_of_latches hfault h he
  refine ⟨ht, ?_⟩
  obtain ⟨hunrecognized, -⟩ | ⟨hoverflow, -⟩ | ⟨hunderflow, -⟩ := hcause
  · exact .inl hunrecognized
  · exact .inr (.inl (s.instrAddr_skip ▸ hoverflow))
  · exact .inr (.inr (s.instrAddr_skip ▸ hunderflow))

/-! ### The invariant along steps (R150 to R153, R155) -/

theorem execRet_mem {s t : State} (h : execRet s = .next t) : t.mem = s.mem := by
  obtain hempty | hpos := Nat.eq_zero_or_pos s.sp.val
  · rw [execRet_of_zero hempty] at h
    exact outcome_next_inj.1 h ▸ s.raise_mem _
  · rw [execRet_of_pos hpos] at h
    exact outcome_next_inj.1 h ▸ s.pop_mem

theorem execCall_mem {nnn : Addr} {s t : State} (h : execCall nnn s = .next t) : t.mem = s.mem := by
  by_cases hfull : s.sp.val = 16
  · rw [execCall_of_full nnn hfull] at h
    exact outcome_next_inj.1 h ▸ s.raise_mem _
  · rw [execCall_of_lt nnn (by omega)] at h
    exact outcome_next_inj.1 h ▸ s.push_mem _

/-- The list of cells is touched by a store of bytes only. -/
theorem exec_mem {i : Instr} {s t : State} (h : exec i s = .next t) :
    t.mem = s.mem ∨ ∃ a bs, t = s.storeBytes a bs := by
  cases i with
  | ldBVx | ldMemVx => exact .inr ⟨_, _, (outcome_next_inj.1 h).symm⟩
  | ret => exact .inl (execRet_mem h)
  | call => exact .inl (execCall_mem h)
  | seImm | sneImm | seReg | sneReg | skp | sknp => exact .inl (outcome_next_inj.1 h ▸ s.skipIf_mem _)
  | drw => exact .inl (outcome_next_inj.1 h ▸ State.drawRows_mem _ _ _ _ _)
  | ldVxMem => exact .inl (outcome_next_inj.1 h ▸ s.loadRegs_mem _)
  | _ => exact .inl (outcome_next_inj.1 h ▸ rfl)

theorem exec_mem_wf {i : Instr} {s t : State} (hwf : s.mem.wf = true) (h : exec i s = .next t) : t.mem.wf = true := by
  obtain hmem | ⟨a, bs, rfl⟩ := exec_mem h
  · rwa [hmem]
  · exact State.storeBytes_wf hwf a bs

theorem step_mem_wf {s t : State} (hwf : s.mem.wf = true) (h : step s = .next t) : t.mem.wf = true := by
  obtain ⟨-, rfl⟩ | ⟨-, -, rfl⟩ | ⟨i, -, hexec⟩ | ⟨-, -, rfl⟩ := step_cases h
  · exact hwf
  · rwa [State.keyPoll_mem]
  · exact exec_mem_wf (s := s.skip) hwf hexec
  · exact hwf

theorem State.latchHonest_of_none {s : State} (h : s.fault = none) : s.latchHonest = true := by
  rw [State.latchHonest, h]

theorem State.latchHonest_of_some {s : State} {e : FatalError} (h : s.fault = some e) :
    s.latchHonest = true ↔ s.wait = false ∧ e.describes s = true := by
  rw [State.latchHonest, h, Bool.and_eq_true, Bool.not_eq_true']

/-- The record of a fatal cycle is true of the state the cycle ends in: `pc` is two past the record's address. -/
theorem FatalError.describes_skip_raise {s : State} {e : FatalError} (h : s.FatalCause e) :
    e.describes (s.skip.raise e) = true := by
  obtain ⟨rfl, hword⟩ | ⟨rfl, hsp⟩ | ⟨rfl, hsp⟩ := h
  · simp [FatalError.describes, hword]
  · simpa [FatalError.describes, State.instrAddr_skip] using hsp
  · simpa [FatalError.describes, State.instrAddr_skip] using hsp

theorem step_latchHonest {s t : State} (hhonest : s.latchHonest = true) (h : step s = .next t) :
    t.latchHonest = true := by
  by_cases hhalted : s.fault.isSome = true
  · rw [step_of_halted hhalted] at h
    exact outcome_next_inj.1 h ▸ hhonest
  have hfault : s.fault = none := by simpa using hhalted
  cases ht : t.fault with
  | none => exact State.latchHonest_of_none ht
  | some e =>
    obtain ⟨rfl, hrun, hcause⟩ := step_eq_raise_of_latches hfault h ht
    obtain ⟨-, hwait⟩ := (running_iff s).1 hrun
    exact (State.latchHonest_of_some ht).2 ⟨hwait, FatalError.describes_skip_raise hcause⟩

/-- Settles O15: memory by the one operation that writes it, the latch by the causes of a fatal cycle. -/
theorem stepKeepsInvariant : Obligations.StepKeepsInvariant :=
  fun _ _ ⟨hwf, hhonest⟩ h => ⟨step_mem_wf hwf h, step_latchHonest hhonest h⟩

/-! ### Runs of events -/

/-- A property that every event of a run keeps holds at its end. -/
theorem runEvents_preserves {P : State → Prop} {es : List Event} {s t : State}
    (hkeeps : ∀ ev ∈ es, ∀ u v, P u → ev.apply u = .next v → P v) (hs : P s) (h : runEvents es s = .next t) : P t := by
  induction es generalizing s with
  | nil => exact outcome_next_inj.1 h ▸ hs
  | cons ev es ih =>
    rw [runEvents] at h
    split at h
    next u hu => exact ih (fun ev' hev' => hkeeps ev' (.tail _ hev')) (hkeeps ev (.head _) s u hs hu) h
    next => cases h
    next => cases h

/-- What the host may write, short of a reset (R26, R28). -/
def hostParts : List Part := [.mem, .delay, .sound, .keys]

theorem Event.keepsAllBut_of_host {ev : Event} {s t : State} (h : ev.apply s = .next t) (hcycle : ev ≠ .cycle)
    (hreset : ev ≠ .reset) : KeepsAllBut hostParts s t := by
  cases ev with
  | cycle => exact absurd rfl hcycle
  | reset => exact absurd rfl hreset
  | tick => exact outcome_next_inj.1 h ▸ (keepsAllBut_tick s).mono (by simp [hostParts])
  | setKey k p => exact outcome_next_inj.1 h ▸ (keepsAllBut_setKey k p s).mono (by simp [hostParts])
  | load bytes => exact outcome_next_inj.1 h ▸ (keepsAllBut_load bytes s).mono (by simp [hostParts])

theorem load_mem_wf {s : State} (hwf : s.mem.wf = true) (bytes : List Byte) : (load bytes s).2.mem.wf = true := by
  by_cases hfits : bytes.length ≤ 3584
  · rw [load_of_fits hfits]
    exact State.storeBytes_wf hwf _ _
  · rwa [load_of_too_long (by omega)]

theorem setKey_mem (k : Nat) (p : Bool) (s : State) : (setKey k p s).mem = s.mem := by
  by_cases hk : k < 16
  · rw [setKey_of_lt hk]
  · rw [setKey_of_ge (by omega)]

theorem Event.apply_mem_wf {ev : Event} {s t : State} (hwf : s.mem.wf = true) (h : ev.apply s = .next t) :
    t.mem.wf = true := by
  cases ev with
  | cycle => exact step_mem_wf hwf h
  | tick => exact outcome_next_inj.1 h ▸ hwf
  | setKey k p => exact outcome_next_inj.1 h ▸ setKey_mem k p s ▸ hwf
  | load bytes => exact outcome_next_inj.1 h ▸ load_mem_wf hwf bytes
  | reset => exact outcome_next_inj.1 h ▸ reset_mem_wf

/-- What a record speaks of the host does not write. -/
theorem State.latchHonest_eq_of_keepsAllBut {s t : State} (h : KeepsAllBut hostParts s t) :
    t.latchHonest = s.latchHonest := by
  have hfault : t.fault = s.fault := h .latch (by simp [hostParts])
  have hpc : t.pc = s.pc := h .pc (by simp [hostParts])
  have hsp : t.sp = s.sp := h .sp (by simp [hostParts])
  obtain ⟨hwait, -, -⟩ := h .keyWait (by simp [hostParts])
  simp only [State.latchHonest, FatalError.describes, hfault, hpc, hsp, hwait]

theorem Event.apply_latchHonest {ev : Event} {s t : State} (hhonest : s.latchHonest = true)
    (h : ev.apply s = .next t) : t.latchHonest = true := by
  by_cases hcycle : ev = .cycle
  · subst hcycle
    exact step_latchHonest hhonest h
  by_cases hreset : ev = .reset
  · subst hreset
    exact outcome_next_inj.1 h ▸ State.latchHonest_of_none rfl
  · exact State.latchHonest_eq_of_keepsAllBut (Event.keepsAllBut_of_host h hcycle hreset) ▸ hhonest

/-- Settles O16: by induction on the events, each of which keeps both clauses. -/
theorem runsKeepInvariant : Obligations.RunsKeepInvariant := fun _ _ _ hs h =>
  runEvents_preserves (P := State.Inv)
    (fun _ _ _ _ ⟨hwf, hhonest⟩ hev => ⟨Event.apply_mem_wf hwf hev, Event.apply_latchHonest hhonest hev⟩) hs h

/-! ### The halted core (R156, R157) -/

/-- On a halted core a cycle is one more event that writes no program state. -/
theorem Event.keepsAllBut_of_halted {ev : Event} {s t : State} (hhalted : s.fault.isSome = true)
    (hreset : ev ≠ .reset) (h : ev.apply s = .next t) : KeepsAllBut hostParts s t := by
  by_cases hcycle : ev = .cycle
  · subst hcycle
    exact outcome_next_inj.1 ((step_of_halted hhalted).symm.trans h) ▸ .refl _ s
  · exact Event.keepsAllBut_of_host h hcycle hreset

/-- Settles O17: by induction on the events; the frame from the first state keeps its latch too, so the core stays halted. -/
theorem latchIsStickyUntilReset : Obligations.LatchIsStickyUntilReset := by
  intro es s t e he hnoReset h
  have hframe : KeepsAllBut hostParts s t := by
    refine runEvents_preserves (P := KeepsAllBut hostParts s) (fun ev hev u v hu huv => ?_) (.refl _ s) h
    have hhalted : u.fault.isSome = true := by
      have hlatch : u.fault = s.fault := hu .latch (by simp [hostParts])
      rw [hlatch, he, Option.isSome_some]
    exact hu.trans (Event.keepsAllBut_of_halted hhalted (fun hreset => hnoReset (hreset ▸ hev)) huv)
  have hlatch : t.fault = s.fault := hframe .latch (by simp [hostParts])
  exact ⟨hlatch.trans he, hframe⟩

/-! ### Ticks, keys and read-outs (R163 to R167) -/

/-- Settles O56: by induction on the ticks. -/
theorem ticksCountDownToZero : Obligations.TicksCountDownToZero := by
  intro n
  induction n with
  | zero => exact fun s => ⟨s, rfl, rfl, rfl, .refl _ s⟩
  | succ n ih =>
    intro s
    obtain ⟨t, hrun, hdelay, hsound, hframe⟩ := ih (tick s)
    rw [tick_dt, countDown_toNat] at hdelay
    rw [tick_st, countDown_toNat] at hsound
    refine ⟨t, (runEvents_cons (e := .tick) rfl _).trans hrun, ?_, ?_, (keepsAllBut_tick s).trans hframe⟩
    · omega
    · omega

/-- Settles O57: an index below 16 is a key's own, one of 16 or more no key's. -/
theorem setKeyWritesOneKey : Obligations.SetKeyWritesOneKey := by
  refine fun k p s => ⟨keepsAllBut_setKey k p s, fun j => ?_, fun hk => setKey_of_ge hk p s⟩
  by_cases hk : k < 16
  · simpa only [Fin.ext_iff] using get_key_setKey s ⟨k, hk⟩ j p
  · rw [setKey_of_ge (by omega), if_neg (by omega)]

theorem readDisplay_eq (s : State) : readDisplay s = s.fb.flatten.toList := by
  change _ = (s.fb.toArray.map Vector.toArray).flatten.toList
  rw [Array.toList_flatten, Array.toList_map, List.map_map]
  rfl

theorem length_readDisplay (s : State) : (readDisplay s).length = 2048 := by
  rw [readDisplay_eq, Vector.length_toList]

/-- The cells row by row, each row 64 long. -/
theorem getElem?_readDisplay (s : State) (yy : Fin 32) (xx : Fin 64) :
    (readDisplay s)[64 * yy.val + xx.val]? = some (s.cell yy xx) := by
  have hindex : 64 * yy.val + xx.val < 32 * 64 := by omega
  have hrow : (64 * yy.val + xx.val) / 64 = yy.val := by omega
  have hcolumn : (64 * yy.val + xx.val) % 64 = xx.val := by omega
  rw [readDisplay_eq, Vector.getElem?_toList, Vector.getElem?_eq_getElem hindex, Vector.getElem_flatten]
  simp only [hrow, hcolumn, State.cell, Vector.get_eq_getElem]

theorem soundActive_iff_toNat_pos (s : State) : soundActive s = true ↔ s.st.toNat > 0 := decide_eq_true_iff

/-- Settles O58: the display read-out cell by cell; the other two read one field. -/
theorem readOutsReportState : Obligations.ReadOutsReportState := fun s =>
  ⟨length_readDisplay s, getElem?_readDisplay s, soundActive_iff_toNat_pos s, rfl⟩

theorem readByte_load {bytes : List Byte} (hfits : bytes.length ≤ 3584) (s : State) (j : Nat) (hj : j < bytes.length) :
    (load bytes s).2.readByte (0x200 + j) = bytes[j] := by
  rw [load_of_fits hfits]
  exact s.readByte_storeBytes_self 0x200 bytes (by omega) j hj

/-- Settles O10: the cycle's first test is the latch; the host's operations do not look at it, and none but `Reset()` writes it. -/
theorem haltedCoreIsFrozen : Obligations.HaltedCoreIsFrozen := by
  refine fun s e he => ⟨step_of_halted (by rw [he, Option.isSome_some]), he, countDown_toNat s.dt, countDown_toNat s.st,
    fun k p => ⟨?setKeyLatch, ?setKeyWrites⟩, fun bytes => ⟨?loadLatch, fun hfits => readByte_load hfits s⟩, he,
    soundActive_iff_toNat_pos s, getElem?_readDisplay s, rfl⟩
  case setKeyLatch => exact (keepsAllBut_setKey k.val p s .latch (by simp)).trans he
  case setKeyWrites => rw [get_key_setKey, if_pos rfl]
  case loadLatch => exact (keepsAllBut_load bytes s .latch (by simp)).trans he

end Sys2Proof.Machine

/-! Runs of events, an instruction placed where it is fetched, the idle jump (R192), and `RND`. -/

namespace Sys2Proof.Machine

/-! ### Every run has its next state -/

theorem Event.apply_next (ev : Event) (s : State) : ∃ t, ev.apply s = .next t := by
  cases ev with
  | cycle => exact stepAlwaysAnswersNext s
  | tick | setKey | load | reset => exact ⟨_, rfl⟩

/-- Settles O13: by induction on the events, each of which answers a next state. -/
theorem everyRunAnswersNext : Obligations.EveryRunAnswersNext := by
  intro es s
  induction es generalizing s with
  | nil => exact ⟨s, rfl⟩
  | cons ev es ih =>
    obtain ⟨u, hu⟩ := ev.apply_next s
    rw [runEvents_cons hu]
    exact ih u

/-! ### An instruction placed at `pc` -/

/-- The table's word of 16 bits is the instruction word itself (R46). -/
theorem tableWord_toNat (op : Word) : tableWord 16 op.toNat = op := by
  rw [tableWord, Nat.mod_eq_of_lt op.isLt, BitVec.ofNat_toNat, BitVec.setWidth_eq]

/-- The two bytes of a word stored in ascending order, high byte first, read back as the word (R46). -/
theorem State.readPair_storeBytes_word (s : State) (a : Nat) (op : Word) :
    (s.storeBytes a [highByte op, lowByte op]).readPair a = op := by
  have hread := s.readByte_storeBytes_self a [highByte op, lowByte op] (by decide : 2 ≤ 4096)
  have hhigh : (s.storeBytes a [highByte op, lowByte op]).readByte a = highByte op := hread 0 Nat.zero_lt_two
  have hlow : (s.storeBytes a [highByte op, lowByte op]).readByte (a + 1) = lowByte op := hread 1 Nat.one_lt_two
  rw [State.readPair, hhigh, hlow, wordOfBytes_high_low]

@[simp] theorem State.withFetchWord_pc (s : State) (nbits w : Nat) : (s.withFetchWord nbits w).pc = s.pc :=
  s.storeBytes_pc _ _

@[simp] theorem State.fetchWord_withFetchWord (s : State) (op : Word) : (s.withFetchWord 16 op.toNat).fetchWord = op := by
  rw [State.fetchWord, State.withFetchWord_pc, State.withFetchWord, tableWord_toNat]
  exact s.readPair_storeBytes_word s.pc.toNat op

theorem State.executes_withFetchWord_encode (s : State) (i : Instr) :
    (s.withFetchWord 16 (encode i).toNat).executes i :=
  ⟨rfl, by rw [State.fetchWord_withFetchWord, decodeWord_encode]⟩

/-- Settles O45: the placed word is fetched by a running core, and decoding gives `i` back. -/
theorem placedWordIsExecuted : Obligations.PlacedWordIsExecuted := by
  intro s i
  rw [step_of_executes (s.executes_withFetchWord_encode i), State.skip, State.withFetchWord_pc]
  rfl

/-! ### The idle jump -/

/-- A word below 4096 is the address of its 12 low bits. -/
theorem addrOf_setWidth {w : Word} (hw : w.toNat < 4096) : addrOf (w.setWidth 12) = w := by
  apply BitVec.eq_of_toNat_eq
  rw [toNat_addrOf, BitVec.toNat_setWidth, Nat.mod_eq_of_lt hw]

/-- Settles O31: the jump takes back the advance of `pc`, the only change of fetch. -/
theorem finishedStateIsFixed : Obligations.FinishedStateIsFixed := fun s ⟨hpc, hjump⟩ =>
  calc step s
    _ = exec (.jp (s.pc.setWidth 12)) s.skip := step_of_executes hjump
    _ = .next (s.skip.setPc (addrOf (s.pc.setWidth 12))) := rfl
    _ = .next (s.skip.setPc s.pc) := by rw [addrOf_setWidth hpc]
    _ = .next s := rfl

/-! ### `RND` -/

/-- Settles O38: `V[x]` is written once, with the masked draw, and then the draw is counted; a bit masked off is 0 whatever was
drawn. -/
theorem randomIsMaskedDraw : Obligations.RandomIsMaskedDraw := by
  intro x nn s
  have hread : (s.writeReg x (s.drawnByte &&& nn)).countDraw.readReg x = s.drawnByte &&& nn := s.readReg_writeReg_self x _
  refine ⟨decodeWord_encode (.rnd x nn), _, rfl, hread, rfl, fun k hk => ?masked, s.keepsRegsBut_writeReg x _,
    exec_keepsAllBut (i := .rnd x nn) rfl⟩
  case masked => rw [hread, BitVec.getLsbD_and, hk, Bool.and_false]

end Sys2Proof.Machine
